-- ==== Sys2Proof/Word.lean ====
section
/-! DEFINITION. The word types of the ZS-620 (chapter 13: bytes, little-endian multi-byte fields) and the plainest
arithmetic of the manual's conventions (Table 0-3: floor, ceil, trunc, ranges). -/

namespace Sys2Proof

/-- One byte of a payload or of the configuration image (chapter 13). -/
abbrev Byte := BitVec 8

/-- A node id, 1..31; 0 means "unset" (Table 0-3). -/
abbrev NodeId := Fin 32

/-- A supply segment, S0..S3 (Table 0-3). -/
abbrev SegIx := Fin 4

/-- A dimmer channel, D0..D11 (Table 0-3). -/
abbrev DimIx := Fin 12

/-- A motion channel, M0..M3 (Table 0-3). -/
abbrev MotIx := Fin 4

/-- A local input, I0..I15 (Table 0-3). -/
abbrev InIx := Fin 16

/-- A key binding, 0..7 (R122). -/
abbrev BindIx := Fin 8

/-- A value brought into lo..hi: below is taken as lo, above as hi (R176). -/
def clampNat (lo hi v : Nat) : Nat := max lo (min hi v)

/-- A signed value brought into lo..hi. -/
def clampInt (lo hi v : Int) : Int := max lo (min hi v)

/-- The ceil of a quotient (Table 0-3, rounding operations). -/
def ceilDiv (a b : Nat) : Nat := (a + (b - 1)) / b

/-- The trunc of a quotient, toward zero (rounding operations). -/
def truncDiv (a b : Int) : Int := a.tdiv b

/-- Milliseconds as microseconds, the unit of the model's clock. -/
def ms (n : Nat) : Nat := n * 1000

end Sys2Proof
end

