-- ==== Sys2Proof/Config.lean ====
section
/-! DEFINITION. What is fixed for the machine: the sizes and times the manual gives as numbers, and the free values
that stand for what it leaves open. -/

namespace Sys2Proof

/-- The transmit queue holds up to 8 frames (R9). -/
def Config.txQueueSize : Nat := 8
/-- Failed attempts at which a frame is dropped (R13). -/
def Config.maxFailed : Nat := 3
/-- The transmit-error count saturates here (R14). -/
def Config.maxErrors : Nat := 255
/-- The foreign claim list holds up to 16 entries (R60). -/
def Config.foreignSize : Nat := 16
/-- The Scene Unit holds up to 4 assemblies (R94). -/
def Config.sceneSize : Nat := 4
/-- The pending queue holds up to 8 entries (R115). -/
def Config.pendingSize : Nat := 8
/-- The image is 452 bytes (Table 13-5). -/
def Config.imageSize : Nat := 452

/-- FRESH becomes LATE, in ms (R21). -/
def Config.lateMs : Nat := 600
/-- LATE becomes LOST, in ms (R21). -/
def Config.lostMs : Nat := 1500
/-- The publisher's period, in ms (R29). -/
def Config.periodMs : Nat := 250
/-- The publisher's spacing, in ms (R31). -/
def Config.spacingMs : Nat := 20
/-- The deepen timer's end, in ms (R53). -/
def Config.deepenMs : Nat := 1000
/-- The recovery timer's end, in ms (R55). -/
def Config.recoveryMs : Nat := 5000
/-- The settle window, in ms (R72). -/
def Config.settleMs : Nat := 40
/-- LISTEN lasts this long, in ms (R178). -/
def Config.listenMs : Nat := 1500
/-- The fade tick, in ms (R81). -/
def Config.tickMs : Nat := 10
/-- Current-sense sampling, in ms (R131). -/
def Config.sampleMs : Nat := 1
/-- An assembly lives this long after its last part, in ms (R96). -/
def Config.sceneAgeMs : Nat := 10000
/-- A LATCHED pending entry's deadline, in ms (R117). -/
def Config.latchedMs : Nat := 2000
/-- A HOLD-TO-RUN deadline, in ms (R117, R141, R150). -/
def Config.holdMs : Nat := 350
/-- HOLD repetition, in ms (R123). -/
def Config.repeatMs : Nat := 100
/-- STOP RE-BROADCAST, in ms (R171). -/
def Config.rebroadcastMs : Nat := 1000
/-- The PULSE sampling interval in microseconds, and the model's idle step (R126, log 3). -/
def Config.pulseUs : Nat := 250
/-- The sampling interval of every other input, in microseconds (R127). -/
def Config.inputUs : Nat := 1000
/-- The PWM period, in microseconds (R78). -/
def Config.pwmUs : Nat := 500
/-- A draw change of this many dA is an early cause (R30). -/
def Config.drawStep : Nat := 20
/-- A published draw saturates here (R20, R32). -/
def Config.maxDraw : Nat := 32767
/-- The fade time of a cap re-request, in units of 10 ms (R56, R89). -/
def Config.capFade : Nat := 100
/-- The fade time of a start level, in units of 10 ms (R91). -/
def Config.startFade : Nat := 200
/-- The level at which ANSWER frames are sent (R5). -/
def Config.answerLevel : Nat := 28
/-- The level at which STATUS frames are sent (R5). -/
def Config.statusLevel : Nat := 24
/-- A full dimmer level (Table 0-3). -/
def Config.fullLevel : Nat := 4095

/-- FREE VALUE. Which of two blocks acts first on one event where the manual says either may (R129, R164, R166),
asked with the number of such choices already made. Nothing in the model constrains it (log 5). -/
opaque Config.eitherFirst : Nat → Bool

/-- FREE VALUE. Which of several timers that fall due and input changes accepted at one moment is taken first, where the
manual says either may be taken first (log 4). Nothing in the model constrains it. -/
opaque Config.tieBreak : Nat → Nat

end Sys2Proof
end

