-- ==== Sys2Proof/Syntax.lean ====
section
/-! DEFINITION. The commands of the ZS-620: one constructor of Instr for each row of spec/opcode_table.json, with the
operands the rule of the row gives it. -/

namespace Sys2Proof

/-- A frame as a receiver reads it from the line (Table 13-1). `length` is the length field; `payload` the bytes read;
`endMark` says that the end mark, and every spacer before it, was read where it belongs (R6, R180; log 12). -/
structure Frame where
  level : BitVec 5
  kind : BitVec 4
  source : BitVec 5
  length : BitVec 5
  payload : List Byte
  check : BitVec 16
  endMark : Bool
  deriving DecidableEq, Repr

/-- The commands the node's surroundings give it; each row of the opcode table is one constructor. -/
inductive Instr where
  /-- POWER_ON (R174). -/
  | powerOn
  /-- RESET_LOW (R174). -/
  | resetLow
  /-- RESET_HIGH (R174). -/
  | resetHigh
  /-- IMAGE_READ_END (R175): the image's bytes, and the first samples of the inputs and of the current-sense inputs
  that the end of LOADING takes (R128, R131; log 20). -/
  | imageReadEnd (image : List Byte) (pins : Vector Bool 16) (sense : Vector Int 4)
  /-- LISTEN_TIMER_EXPIRY (R178). -/
  | listenTimerExpiry
  /-- LINE_IDLE (R12). -/
  | lineIdle
  /-- ARBITRATION_LOSS (R3). -/
  | arbitrationLoss
  /-- TRANSMIT_ERROR (R13). -/
  | transmitError
  /-- FRAME_SENT (R15). -/
  | frameSent
  /-- STATUS_ARRIVAL (R20). -/
  | statusArrival (f : Frame)
  /-- CLAIM_ARRIVAL (R61). -/
  | claimArrival (f : Frame)
  /-- ANSWER_ARRIVAL (R121). -/
  | answerArrival (f : Frame)
  /-- SCENE_ARRIVAL (R95). -/
  | sceneArrival (f : Frame)
  /-- CUE_ARRIVAL (R101). -/
  | cueArrival (f : Frame)
  /-- STOP_ARRIVAL (R172). -/
  | stopArrival (f : Frame)
  /-- RELEASE_ARRIVAL (R173). -/
  | releaseArrival (f : Frame)
  /-- SET: a COMMAND frame with the DIMMER verb SET (R84). -/
  | set (f : Frame)
  /-- NUDGE: a COMMAND frame with the DIMMER verb NUDGE (R85). -/
  | nudge (f : Frame)
  /-- FREEZE: a COMMAND frame with the DIMMER verb FREEZE (R86). -/
  | freeze (f : Frame)
  /-- MOVE: a COMMAND frame with the MOTION verb MOVE (R111). -/
  | move (f : Frame)
  /-- HOME: a COMMAND frame with the MOTION verb HOME (R138). -/
  | home (f : Frame)
  /-- HOLD: a COMMAND frame with the MOTION verb HOLD (R113). -/
  | hold (f : Frame)
  /-- HALT: a COMMAND frame with the MOTION verb HALT (R112). -/
  | halt (f : Frame)
  /-- FLAG: a COMMAND frame with the NODE verb FLAG (R108). -/
  | flag (f : Frame)
  /-- CANCEL: a COMMAND frame with the NODE verb CANCEL (R109). -/
  | cancel (f : Frame)
  /-- RESTART: a COMMAND frame with the NODE verb RESTART (R110). -/
  | restart (f : Frame)
  /-- PEER_LATE: the peer's time since its last STATUS reaches 600 ms (R21). -/
  | peerLate (n : NodeId)
  /-- PEER_LOST: the peer's time since its last STATUS reaches 1500 ms (R21). -/
  | peerLost (n : NodeId)
  /-- PERIOD_TIMER_EXPIRY (R29). -/
  | periodTimerExpiry
  /-- SPACING_TIME_EXPIRY (R31). -/
  | spacingTimeExpiry
  /-- DEEPEN_TIMER_EXPIRY of a segment (R53). -/
  | deepenTimerExpiry (g : SegIx)
  /-- RECOVERY_TIMER_EXPIRY of a segment (R55). -/
  | recoveryTimerExpiry (g : SegIx)
  /-- FADE_TICK (R81). -/
  | fadeTick
  /-- FADE_END of a dimmer channel (R81). -/
  | fadeEnd (d : DimIx)
  /-- STOPPING_FADE_END of a motion channel (R147). -/
  | stoppingFadeEnd (m : MotIx)
  /-- CURRENT_SAMPLE: the readings of the four current-sense inputs (R131). -/
  | currentSample (readings : Vector Int 4)
  /-- INPUT_CHANGE_ACCEPTED: the input's filter accepts a new state (R129). -/
  | inputChangeAccepted (i : InIx) (active : Bool)
  /-- HOLD_REPETITION of a key binding (R123). -/
  | holdRepetition (b : BindIx)
  /-- RE_BROADCAST_TIMER_EXPIRY (R171). -/
  | reBroadcastTimerExpiry
  /-- SETTLE_END of a channel's own claim (R72). -/
  | settleEnd (m : MotIx)
  /-- CLAIM_HOLD_EXPIRY of a channel's own claim (R69). -/
  | claimHoldExpiry (m : MotIx)
  /-- FOREIGN_CLAIM_EXPIRY of the entry named by claimant and tag (R63). -/
  | foreignClaimExpiry (claimant : NodeId) (tag : Fin 8)
  /-- PENDING_DEADLINE_EXPIRY of the entry named by origin and tag (R117). -/
  | pendingDeadlineExpiry (origin : NodeId) (tag : Fin 16)
  /-- DEAD_TIME_END of a motion channel (R149). -/
  | deadTimeEnd (m : MotIx)
  /-- HOLD_DEADLINE_EXPIRY of a motion channel's holder (R150). -/
  | holdDeadlineExpiry (m : MotIx)
  /-- STALL_TIMER_EXPIRY of a motion channel (R162). -/
  | stallTimerExpiry (m : MotIx)
  /-- SCENE_AGE_TIMER_EXPIRY of the assembly with this scene number (R100). -/
  | sceneAgeTimerExpiry (scene : Byte)
  /-- UNKNOWN_VERB_COMMAND: a COMMAND frame whose channel kind is 3 or whose verb code Table 13-3 lacks (R107). -/
  | unknownVerbCommand (f : Frame)
  deriving DecidableEq, Repr

end Sys2Proof
end

