-- ==== Sys2Proof/Machine/Frames.lean ====
section
/-! DEFINITION. Frames on the line: the bit order, the check and the spacers (R180), the tests of a received frame
(R6, Tables 1-5 and 13-1) and the places of the payload fields (R181, Tables 13-2 and 13-3). -/

namespace Sys2Proof.Machine

/-- The bits of a field of `width` bits, most significant first (R180). -/
def bitsMsb (width v : Nat) : List Bool :=
  (List.range width).reverse.map (fun i => v.testBit i)

/-- The bits of a payload: bytes in offset order, each most significant bit first (R180). -/
def payloadBits (p : List Byte) : List Bool :=
  p.flatMap (fun b => bitsMsb 8 b.toNat)

/-- The bits from the level through the payload, in the order sent, spacers excluded (R180). -/
def checkedBits (level kind source length : Nat) (p : List Byte) : List Bool :=
  bitsMsb 5 level ++ bitsMsb 4 kind ++ bitsMsb 5 source ++ bitsMsb 5 length ++ payloadBits p

/-- One bit through the check register (R180, steps 2 and 3). -/
def checkStep (r : BitVec 16) (b : Bool) : BitVec 16 :=
  let shifted := r <<< 1
  if r.msb != b then shifted ^^^ 0x1021#16 else shifted

/-- The check over a run of bits: the register starts at all ones (R180). -/
def checkOf (bits : List Bool) : BitVec 16 :=
  bits.foldl checkStep 0xFFFF#16

/-- The bits with one driven (0) spacer inserted after every run of six consecutive released (1) bits; `run` counts
the released bits just sent (R180). -/
def insertSpacers : Nat → List Bool → List Bool
  | _, [] => []
  | run, b :: bs =>
    if b then
      if run + 1 = 6 then true :: false :: insertSpacers 0 bs
      else true :: insertSpacers (run + 1) bs
    else false :: insertSpacers 0 bs

/-- A receiver's removal of the spacers; none where a spacer reads released (R180). -/
def removeSpacers : Nat → List Bool → Option (List Bool)
  | _, [] => some []
  | run, b :: bs =>
    if run = 6 then
      if b then none else removeSpacers 0 bs
    else (removeSpacers (if b then run + 1 else 0) bs).map (b :: ·)

/-- The whole frame as driven bits on the line, 0 driven and 1 released: start mark, fields with spacers, end mark
(R1, R4, Table 13-1). -/
def frameBits (level kind source : Nat) (p : List Byte) : List Bool :=
  let fields := checkedBits level kind source p.length p
  false :: insertSpacers 0 (fields ++ bitsMsb 16 (checkOf fields).toNat) ++ [false]

/-- The eight frame kinds (Table 1-3). -/
inductive Kind where
  | stop | release | claim | command | answer | cue | scene | status
  deriving DecidableEq, Repr

/-- The kind codes of Table 1-3. -/
def Kind.code : Kind → Nat
  | .stop => 0 | .release => 1 | .claim => 2 | .command => 3
  | .answer => 4 | .cue => 5 | .scene => 6 | .status => 7

/-- Table 1-5: the payload lengths a kind permits; a code of 8..15 permits none (R6). -/
def permittedLength (kind len : Nat) : Bool :=
  match kind with
  | 0 => len == 1
  | 1 => len == 0
  | 2 => len == 4
  | 3 => decide (4 ≤ len ∧ len ≤ 10)
  | 4 => len == 4
  | 5 => len == 1
  | 6 => len == 7 || len == 9 || len == 11 || len == 13
  | 7 => len == 15
  | _ => false

/-- The check computed over a received frame (R6, R180). -/
def frameCheck (f : Frame) : BitVec 16 :=
  checkOf (checkedBits f.level.toNat f.kind.toNat f.source.toNat f.length.toNat f.payload)

/-- The frame passes the tests of R6. -/
def frameSound (f : Frame) : Bool :=
  frameCheck f == f.check && f.endMark && f.payload.length == f.length.toNat &&
    decide (f.kind.toNat < 8) && decide (f.length.toNat ≤ 16) &&
    permittedLength f.kind.toNat f.length.toNat && decide (f.source.toNat ≠ 0)

/-- The source of a frame as a node id (Table 1-2). -/
def frameSource (f : Frame) : NodeId := ⟨f.source.toNat, f.source.isLt⟩

/-- A byte of a payload, record or image: the byte at the offset, or the given one past the end. -/
def byteAt (p : List Byte) (i : Nat) : Nat := (p.getD i 0).toNat

/-- A little-endian two-byte field (chapter 13). -/
def le16 (p : List Byte) (i : Nat) : Nat := byteAt p i + 256 * byteAt p (i + 1)

/-- A little-endian three-byte field (chapter 13). -/
def le24 (p : List Byte) (i : Nat) : Nat :=
  byteAt p i + 256 * byteAt p (i + 1) + 65536 * byteAt p (i + 2)

/-- A two-byte two's complement field (Table 13-3, NUDGE). -/
def signed16 (v : Nat) : Int := if v < 32768 then (v : Int) else (v : Int) - 65536

/-- The bits lo, lo+1, … of a field of `width` bits. -/
def bitField (v lo width : Nat) : Nat := v / 2 ^ lo % 2 ^ width

/-- A field of five bits as a node id. -/
def idField (v : Nat) : NodeId := Fin.ofNat 32 v

/-- COMMAND, byte 0 (Table 13-2). -/
def cmdTarget (p : List Byte) : NodeId := idField (byteAt p 0)
/-- COMMAND, byte 1, bits 0..3. -/
def cmdTag (p : List Byte) : Nat := bitField (byteAt p 1) 0 4
/-- COMMAND, byte 1, bit 4. -/
def cmdWanted (p : List Byte) : Bool := (byteAt p 1).testBit 4
/-- COMMAND, byte 2, bits 0..3. -/
def cmdIndex (p : List Byte) : Nat := bitField (byteAt p 2) 0 4
/-- COMMAND, byte 2, bits 4..5: 0 DIMMER, 1 MOTION, 2 NODE. -/
def cmdKind (p : List Byte) : Nat := bitField (byteAt p 2) 4 2
/-- COMMAND, byte 3. -/
def cmdVerb (p : List Byte) : Nat := byteAt p 3
/-- COMMAND, bytes 4 on. -/
def cmdArgs (p : List Byte) : List Byte := p.drop 4

/-- The verbs of Table 13-3. -/
inductive Verb where
  | set | nudge | freeze | move | home | hold | halt | flag | cancel | restart
  deriving DecidableEq, Repr

/-- The verb of a channel kind and verb code, or none where Table 13-3 has none (R107, R181). -/
def verbOf (kind code : Nat) : Option Verb :=
  match kind, code with
  | 0, 1 => some .set
  | 0, 2 => some .nudge
  | 0, 3 => some .freeze
  | 1, 1 => some .move
  | 1, 2 => some .home
  | 1, 3 => some .hold
  | 1, 4 => some .halt
  | 2, 1 => some .flag
  | 2, 2 => some .cancel
  | 2, 3 => some .restart
  | _, _ => none

/-- The argument bytes of a verb (Table 13-3). -/
def Verb.argCount : Verb → Nat
  | .set => 4 | .nudge => 4 | .freeze => 0
  | .move => 4 | .home => 1 | .hold => 0 | .halt => 0
  | .flag => 2 | .cancel => 1 | .restart => 0

end Sys2Proof.Machine
end

