-- ==== Sys2Proof/WellFormed.lean ====
section
/-! DEFINITION. Which commands are well formed: the operands name something the node has, and a frame is one the row
can be about. The machine is total: an ill-formed command is not an event of the node, and its meaning has no effect. -/

namespace Sys2Proof

open Machine

/-- A frame that a row for this kind can be about: it carries the kind, or a kind code that R6 discards, and no more
bytes than the length field can count (Table 13-1). -/
def Frame.ofKind (k : Kind) (f : Frame) : Bool :=
  (f.kind.toNat == k.code || decide (8 ≤ f.kind.toNat)) && decide (f.payload.length ≤ 31)

/-- A COMMAND frame that a verb's row can be about: when its four fixed bytes are there, they spell the verb. -/
def Frame.ofVerb (v : Option Verb) (f : Frame) : Bool :=
  f.ofKind .command &&
    (decide (f.payload.length < 4) || verbOf (cmdKind f.payload) (cmdVerb f.payload) == v)

/-- A command is well formed. -/
def Instr.wellFormed : Instr → Bool
  | .powerOn => true
  | .resetLow => true
  | .resetHigh => true
  | .imageReadEnd image _ _ => image.length == Config.imageSize
  | .listenTimerExpiry => true
  | .lineIdle => true
  | .arbitrationLoss => true
  | .transmitError => true
  | .frameSent => true
  | .statusArrival f => f.ofKind .status
  | .claimArrival f => f.ofKind .claim
  | .answerArrival f => f.ofKind .answer
  | .sceneArrival f => f.ofKind .scene
  | .cueArrival f => f.ofKind .cue
  | .stopArrival f => f.ofKind .stop
  | .releaseArrival f => f.ofKind .release
  | .set f => f.ofVerb (some .set)
  | .nudge f => f.ofVerb (some .nudge)
  | .freeze f => f.ofVerb (some .freeze)
  | .move f => f.ofVerb (some .move)
  | .home f => f.ofVerb (some .home)
  | .hold f => f.ofVerb (some .hold)
  | .halt f => f.ofVerb (some .halt)
  | .flag f => f.ofVerb (some .flag)
  | .cancel f => f.ofVerb (some .cancel)
  | .restart f => f.ofVerb (some .restart)
  | .peerLate n => decide (n ≠ 0)
  | .peerLost n => decide (n ≠ 0)
  | .periodTimerExpiry => true
  | .spacingTimeExpiry => true
  | .deepenTimerExpiry _ => true
  | .recoveryTimerExpiry _ => true
  | .fadeTick => true
  | .fadeEnd _ => true
  | .stoppingFadeEnd _ => true
  | .currentSample _ => true
  | .inputChangeAccepted _ _ => true
  | .holdRepetition _ => true
  | .reBroadcastTimerExpiry => true
  | .settleEnd _ => true
  | .claimHoldExpiry _ => true
  | .foreignClaimExpiry claimant _ => decide (claimant ≠ 0)
  | .pendingDeadlineExpiry origin _ => decide (origin ≠ 0)
  | .deadTimeEnd _ => true
  | .holdDeadlineExpiry _ => true
  | .stallTimerExpiry _ => true
  | .sceneAgeTimerExpiry scene => decide (scene ≠ 0)
  | .unknownVerbCommand f => f.ofVerb none

end Sys2Proof
end

