-- ==== Sys2Proof/Decode.lean ====
section
/-! DEFINITION. The decoder of the opcode table. The ZS-620 is a block: no row of spec/opcode_table.json gives its
command a word of bits, so no word spells a command (log 9). -/

namespace Sys2Proof

/-- The command a word spells by the table's bits: none, since every row's list of fields is empty. -/
def decodeTableWord (_nbits _w : Nat) : Option Instr := none

end Sys2Proof
end

