-- ==== Sys2Proof/Machine/State.lean ====
section
/-! DEFINITION. Everything the manual gives the node to hold, as plain data, and the state at the start of a cold
start. INVENTORY.md lists each field with the rule that names it. -/

namespace Sys2Proof.Machine

/-- No command of the node faults: the manual gives every event a rule for going on (INVENTORY.md, Faults). The type
is closed and has no constructor. -/
inductive Fault where
  deriving DecidableEq, Repr

/-- Why a command is refused. -/
inductive Refusal where
  /-- Raised by exec's arms for a row of the table that has no meaning yet; safe: the machine stops. -/
  | notModelled (mnemonic : String)
  deriving DecidableEq, Repr

/-- A timer: stopped at a value in microseconds, or running since a moment of the clock (log 2). -/
inductive Timer where
  | stopped (us : Nat)
  | running (since : Nat)
  deriving DecidableEq, Repr

/-- Node modes (Table 12-1). -/
inductive Mode where
  | loading | listen | ready | silent
  deriving DecidableEq, Repr

/-- Freshness of a peer entry (Table 2-1). -/
inductive Freshness where
  | absent | fresh | late | lost | self
  deriving DecidableEq, Repr

/-- Postures (Table 10-2). -/
inductive Posture where
  | unknown | stowed | deployed | between | outbound | inbound | fault | absent
  deriving DecidableEq, Repr

/-- Motion directions (Table 0-3). -/
inductive Dir where
  | outward | inward
  deriving DecidableEq, Repr

/-- Motion channel states (Table 9-2). -/
inductive MotionState where
  | idle | claiming | starting | running | stopping | settling | tripped
  deriving DecidableEq, Repr

/-- Trip reasons (Table 11-1). -/
inductive TripReason where
  | overcurrent | stall | sensor | guard | interlock | stop | sibling | clash
  deriving DecidableEq, Repr

/-- Own claim states (Table 4-3). -/
inductive ClaimState where
  | none | waiting | opened | held
  deriving DecidableEq, Repr

/-- Shed states (Table 3-5). -/
inductive ShedState where
  | normal | shed1 | shed2
  deriving DecidableEq, Repr

/-- Refusal reasons of an ANSWER (Table 7-5). -/
inductive Reason where
  | badArgument | notPermitted | notReady | stopped | tripped | outranked | full
  | budget | interlock | unreferenced | sensor
  deriving DecidableEq, Repr

/-- Outcomes of an ANSWER (Table 13-4). -/
inductive Outcome where
  | taken | queued | refused (r : Reason) | displaced | expired | cancelled
  deriving DecidableEq, Repr

/-- STOP reasons the node sends (R5, Table 13-4). -/
inductive StopReason where
  | panel | estopInput | rebroadcast
  deriving DecidableEq, Repr

/-- Hold modes of a motion command (Table 7-3). -/
inductive HoldMode where
  | holdToRun | latched
  deriving DecidableEq, Repr

/-- Speed select of a motion command (Table 9-3). -/
inductive SpeedSelect where
  | full | slow
  deriving DecidableEq, Repr

/-- The two verbs that set a channel moving (Table 7-3). -/
inductive MotionVerb where
  | move | home
  deriving DecidableEq, Repr

/-- Pulse edge selection (R130). -/
inductive Edge where
  | rising | falling | both
  deriving DecidableEq, Repr

/-- Input roles (Table 8-1). -/
inductive Role where
  | none | flag | key
  | stowEnd (m : MotIx) | deployEnd (m : MotIx) | pulse (m : MotIx) | hold (m : MotIx) | guard (m : MotIx)
  | estop
  deriving DecidableEq, Repr

/-- Segment configuration (Table 3-1). -/
structure SegCfg where
  limit : Nat
  margin : Nat
  lostFloor : Nat
  deriving DecidableEq, Repr

/-- Dimmer configuration (Table 5-1). -/
structure DimCfg where
  configured : Bool
  segment : SegIx
  rating : Nat
  minOn : Nat
  shedClass : Nat
  shedLevel : Nat
  cued : Bool
  startLevel : Nat
  deriving DecidableEq, Repr

/-- Motion configuration (Table 9-1); `localHold` is the hold source as resolved by R125. -/
structure MotCfg where
  configured : Bool
  segment : SegIx
  claimAmount : Nat
  claimHold : Nat
  inrushTrip : Nat
  runTrip : Nat
  scale : Nat
  deadTime : Nat
  stallTime : Nat
  fullSpeed : Nat
  slowSpeed : Nat
  rampUp : Nat
  rampDown : Nat
  travel : Nat
  stowBand : Nat
  deployBand : Nat
  slowBand : Nat
  localHold : Bool
  siblingTrip : Bool
  edge : Edge
  deriving DecidableEq, Repr

/-- What an interlock entry tests (Table 11-2); bit n of `allowed` stands for posture code n. -/
inductive LockTest where
  | posture (channel : MotIx) (allowed : BitVec 8)
  | flag (index : Nat) (required : Bool)
  deriving DecidableEq, Repr

/-- An interlock entry (Table 11-2). -/
structure LockEntry where
  channel : MotIx
  onOut : Bool
  onIn : Bool
  subject : NodeId
  test : LockTest
  deriving DecidableEq, Repr

/-- A key binding (Table 7-6); `args` are the six stored argument bytes (Table 13-6). -/
structure Binding where
  input : InIx
  target : NodeId
  index : Nat
  kind : Nat
  verb : Nat
  level : Nat
  mode : HoldMode
  wanted : Bool
  args : List Byte
  deriving DecidableEq, Repr

/-- The configuration the image gives the node, clamped and resolved (R176, R125). -/
structure NodeConfig where
  ownId : NodeId
  safety : Vector NodeId 4
  segs : Vector SegCfg 4
  dims : Vector DimCfg 12
  mots : Vector MotCfg 4
  roles : Vector Role 16
  locks : Vector LockEntry 16
  binds : Vector Binding 8
  deriving DecidableEq, Repr

/-- The six mode bits of a STATUS (Table 2-6). -/
structure ModeBits where
  ready : Bool
  stopLatch : Bool
  estopHeld : Bool
  partialCue : Bool
  txError : Bool
  tripped : Bool
  deriving DecidableEq, Repr

/-- What a STATUS carries beside its sequence (Table 1-4). -/
structure StatusContents where
  bits : ModeBits
  draws : Vector Nat 4
  postures : Vector Posture 4
  flags : BitVec 20
  deriving DecidableEq, Repr

/-- The payload of a frame the node sends (R5). -/
inductive TxBody where
  | stop (r : StopReason)
  | claim (tag : MotIx) (segment : SegIx) (amount hold : Nat)
  | command (payload : List Byte)
  | answer (addressee : NodeId) (tag : Nat) (o : Outcome)
  | status (seq : Nat) (c : StatusContents)
  deriving DecidableEq, Repr

/-- A frame waiting to be sent (R9, R11). -/
structure TxFrame where
  level : Nat
  body : TxBody
  failed : Nat
  onLine : Bool
  deriving DecidableEq, Repr

/-- The Link Controller (R9, R11, R14, R16, R1). -/
structure Link where
  queue : List TxFrame
  slot : Option TxFrame
  slotNext : Option TxFrame
  errors : Nat
  clashed : Bool
  joined : Bool
  deriving DecidableEq, Repr

/-- A peer entry (Table 2-1); `since` is the time since the last accepted STATUS. -/
structure PeerEntry where
  freshness : Freshness
  seq : Option Nat
  since : Timer
  contents : StatusContents
  deriving DecidableEq, Repr

/-- The publisher (Table 2-5). -/
structure Publisher where
  seq : Nat
  period : Timer
  spacing : Timer
  mark : Bool
  last : StatusContents
  active : Bool
  deriving DecidableEq, Repr

/-- A segment record (Table 3-1), beside its configuration. -/
structure Segment where
  own : Nat
  reserve : Nat
  peerCharge : Nat
  headroom : Int
  shed : ShedState
  deepen : Timer
  recovery : Timer
  deriving DecidableEq, Repr

/-- A foreign claim (Table 4-1); `expiry` is a moment of the clock. -/
structure ForeignClaim where
  claimant : NodeId
  tag : Nat
  segment : SegIx
  amount : Nat
  level : Nat
  expiry : Nat
  deriving DecidableEq, Repr

/-- An own claim record (Table 4-2). -/
structure OwnClaim where
  state : ClaimState
  segment : SegIx
  amount : Nat
  hold : Nat
  level : Nat
  override : Bool
  settle : Timer
  sendMoment : Option Nat
  inFlight : Nat
  deriving DecidableEq, Repr

/-- A fade in progress (Table 5-2). -/
structure Fade where
  l0 : Nat
  target : Nat
  steps : Nat
  taken : Nat
  deriving DecidableEq, Repr

/-- A loaded preload slot (Table 5-1). -/
structure Slot where
  scene : Nat
  level : Nat
  fade : Nat
  deriving DecidableEq, Repr

/-- The running fields of a dimmer channel (Table 5-1), with the two compare stages of its output (R78). -/
structure DimmerCh where
  applied : Nat
  fade : Option Fade
  slot : Option Slot
  capped : Bool
  booked : Nat
  waiting : Nat
  active : Nat
  deriving DecidableEq, Repr

/-- A scene assembly (Table 6-1); bit i of `received` is part i. -/
structure Assembly where
  scene : Nat
  parts : Nat
  received : BitVec 3
  loaded : Nat
  lost : Nat
  age : Timer
  deriving DecidableEq, Repr

/-- A motion command as taken up (Tables 7-3 and 9-3): `dir` is the direction its frame gives, `target` is already in
0..Travel, `level` is the adjusted level. -/
structure MotionCmd where
  origin : NodeId
  tag : Nat
  level : Nat
  verb : MotionVerb
  mode : HoldMode
  dir : Dir
  target : Option Nat
  speed : SpeedSelect
  wanted : Bool
  deriving DecidableEq, Repr

/-- A holder or follow-on record (Table 9-3); `deadline` is a moment of the clock. -/
structure Holder where
  cmd : MotionCmd
  deadline : Option Nat
  deriving DecidableEq, Repr

/-- A pending queue entry (Table 7-3). -/
structure PendEntry where
  cmd : MotionCmd
  channel : MotIx
  deadline : Nat
  deriving DecidableEq, Repr

/-- The press state of a key binding (R122, R123); `nextHold` is the moment of the next HOLD while the repetition
runs. -/
structure Press where
  pressed : Bool
  nextHold : Option Nat
  deriving DecidableEq, Repr

/-- The running fields of an input record (R124); its role stands in the configuration. `accepted` is the model's own mark
of a change that the filter has accepted at this moment and that is still to be handed on (log 34). -/
structure InputRec where
  filtered : Bool
  runCount : Nat
  accepted : Bool
  deriving DecidableEq, Repr

/-- A motion channel (Tables 9-2 and 10-1, R38, R132), with its outputs (R137, R144, R78). `slow` says that the chosen
speed is Slow Speed (R138, R145); `posture` is the posture last derived (R161). -/
structure MotionCh where
  state : MotionState
  direction : Option Dir
  holder : Option Holder
  followOn : Option Holder
  speed : Nat
  speedFade : Option Fade
  slow : Bool
  speedWaiting : Nat
  speedActive : Nat
  outOn : Bool
  inOn : Bool
  deadTimer : Timer
  position : Int
  referenced : Bool
  stallTimer : Timer
  posture : Posture
  tripReason : Option TripReason
  history : Vector Nat 16
  running : Nat
  overCount : Nat
  deriving DecidableEq, Repr

/-- The node. `inputTimer` runs since the first samples of the inputs (R128). -/
structure State where
  now : Nat
  choices : Nat
  mode : Mode
  resetLow : Bool
  faultOut : Bool
  listenTimer : Timer
  cfg : NodeConfig
  link : Link
  peers : Vector PeerEntry 32
  pub : Publisher
  segs : Vector Segment 4
  foreign : List ForeignClaim
  saturated : Bool
  claims : Vector OwnClaim 4
  dims : Vector DimmerCh 12
  scenes : List Assembly
  partialCue : Bool
  motionQueue : List PendEntry
  softFlags : Vector Bool 4
  presses : Vector Press 8
  inputs : Vector InputRec 16
  pins : Vector Bool 16
  sense : Vector Nat 4
  mots : Vector MotionCh 4
  stopLatch : Bool
  rebroadcast : Timer
  fadeTimer : Timer
  sampleTimer : Timer
  inputTimer : Timer
  pending : List Instr
  deriving DecidableEq, Repr

/-- A timer stopped at 0. -/
def Timer.zero : Timer := .stopped 0

/-- All six mode bits clear (R19, R27). -/
def ModeBits.clear : ModeBits := ⟨false, false, false, false, false, false⟩

/-- Mode bits clear, draws 0, postures ABSENT, flags 0 (R19, R27). -/
def StatusContents.blank : StatusContents :=
  ⟨.clear, Vector.replicate 4 0, Vector.replicate 4 .absent, 0⟩

/-- A peer entry at cold start (R19). -/
def PeerEntry.blank : PeerEntry := ⟨.absent, none, .zero, .blank⟩

/-- The publisher at cold start (R27). -/
def Publisher.blank : Publisher := ⟨255, .zero, .zero, false, .blank, false⟩

/-- The Link Controller at cold start (R18). -/
def Link.blank : Link := ⟨[], none, none, 0, false, false⟩

/-- A segment record with a given headroom (R34). -/
def Segment.blank (h : Int) : Segment := ⟨0, 0, 0, h, .normal, .zero, .zero⟩

/-- An own claim record at cold start (R65). -/
def OwnClaim.blank : OwnClaim := ⟨.none, 0, 0, 0, 0, false, .zero, none, 0⟩

/-- A dimmer channel at cold start (R76). -/
def DimmerCh.blank : DimmerCh := ⟨0, none, none, false, 0, 0, 0⟩

/-- An unconfigured motion channel (R135), which every channel is until an image configures it. -/
def MotionCh.blank : MotionCh :=
  { state := .idle, direction := none, holder := none, followOn := none, speed := 0, speedFade := none,
    slow := false, speedWaiting := 0, speedActive := 0, outOn := false, inOn := false, deadTimer := .zero,
    position := 0, referenced := false, stallTimer := .zero, posture := .absent, tripReason := none,
    history := Vector.replicate 16 0, running := 0, overCount := 0 }

/-- An unconfigured dimmer channel's configuration (log 8). -/
def DimCfg.blank : DimCfg := ⟨false, 0, 1, 0, 0, 0, false, 0⟩

/-- An unconfigured motion channel's configuration (log 8). -/
def MotCfg.blank : MotCfg :=
  { configured := false, segment := 0, claimAmount := 1, claimHold := 1, inrushTrip := 1, runTrip := 1, scale := 1,
    deadTime := 50, stallTime := 0, fullSpeed := 0, slowSpeed := 0, rampUp := 0, rampDown := 0, travel := 1,
    stowBand := 0, deployBand := 0, slowBand := 0, localHold := false, siblingTrip := false, edge := .rising }

/-- An unused interlock entry (R168). -/
def LockEntry.blank : LockEntry := ⟨0, false, false, 0, .flag 0 false⟩

/-- A binding with target 0, which never fires (R176). -/
def Binding.blank : Binding := ⟨0, 0, 0, 0, 0, 0, .latched, false, []⟩

/-- No image has been taken: nothing is configured and the own id is unset (log 8). -/
def NodeConfig.blank : NodeConfig :=
  { ownId := 0, safety := Vector.replicate 4 0, segs := Vector.replicate 4 ⟨1, 0, 0⟩,
    dims := Vector.replicate 12 .blank, mots := Vector.replicate 4 .blank, roles := Vector.replicate 16 .none,
    locks := Vector.replicate 16 .blank, binds := Vector.replicate 8 .blank }

/-- The machine right after reset: the start of a cold start (R174). The node is in LOADING, every output is off, no
timer runs and no block is built. -/
def State.reset : State :=
  { now := 0, choices := 0, mode := .loading, resetLow := false, faultOut := false, listenTimer := .zero,
    cfg := .blank, link := .blank, peers := Vector.replicate 32 .blank, pub := .blank,
    segs := Vector.replicate 4 (.blank 0), foreign := [], saturated := false,
    claims := Vector.replicate 4 .blank, dims := Vector.replicate 12 .blank, scenes := [], partialCue := false,
    motionQueue := [], softFlags := Vector.replicate 4 false, presses := Vector.replicate 8 ⟨false, none⟩,
    inputs := Vector.replicate 16 ⟨false, 0, false⟩, pins := Vector.replicate 16 false, sense := Vector.replicate 4 0,
    mots := Vector.replicate 4 .blank, stopLatch := false, rebroadcast := .zero, fadeTimer := .zero,
    sampleTimer := .zero, inputTimer := .zero, pending := [] }

end Sys2Proof.Machine
end

