-- ==== Sys2Proof/Machine/Ops.lean ====
section
/-! DEFINITION. The named operations over the state: updates of one record, timers and the clock, and the work an
event still has to do (Act) with the operations that leave such work (Op). -/

namespace Sys2Proof.Machine

/-! ## One record read, and one record changed -/

/-- A segment record. -/
def State.seg (s : State) (g : SegIx) : Segment := s.segs[g]
/-- A dimmer channel. -/
def State.dim (s : State) (d : DimIx) : DimmerCh := s.dims[d]
/-- A motion channel. -/
def State.mot (s : State) (m : MotIx) : MotionCh := s.mots[m]
/-- An own claim record. -/
def State.claim (s : State) (m : MotIx) : OwnClaim := s.claims[m]
/-- A peer entry. -/
def State.peer (s : State) (n : NodeId) : PeerEntry := s.peers[n]
/-- An input record. -/
def State.input (s : State) (i : InIx) : InputRec := s.inputs[i]
/-- A key binding's press state. -/
def State.press (s : State) (b : BindIx) : Press := s.presses[b]

/-- A segment's configuration. -/
def State.segCfg (s : State) (g : SegIx) : SegCfg := s.cfg.segs[g]
/-- A dimmer channel's configuration. -/
def State.dimCfg (s : State) (d : DimIx) : DimCfg := s.cfg.dims[d]
/-- A motion channel's configuration. -/
def State.motCfg (s : State) (m : MotIx) : MotCfg := s.cfg.mots[m]
/-- A key binding. -/
def State.binding (s : State) (b : BindIx) : Binding := s.cfg.binds[b]

/-- One segment record changed. -/
def State.modSeg (s : State) (g : SegIx) (f : Segment → Segment) : State :=
  { s with segs := s.segs.set g (f (s.seg g)) }

/-- One dimmer channel changed. -/
def State.modDim (s : State) (d : DimIx) (f : DimmerCh → DimmerCh) : State :=
  { s with dims := s.dims.set d (f (s.dim d)) }

/-- One motion channel changed. -/
def State.modMot (s : State) (m : MotIx) (f : MotionCh → MotionCh) : State :=
  { s with mots := s.mots.set m (f (s.mot m)) }

/-- One own claim record changed. -/
def State.modClaim (s : State) (m : MotIx) (f : OwnClaim → OwnClaim) : State :=
  { s with claims := s.claims.set m (f (s.claim m)) }

/-- One peer entry changed. -/
def State.modPeer (s : State) (n : NodeId) (f : PeerEntry → PeerEntry) : State :=
  { s with peers := s.peers.set n (f (s.peer n)) }

/-- One input record changed. -/
def State.modInput (s : State) (i : InIx) (f : InputRec → InputRec) : State :=
  { s with inputs := s.inputs.set i (f (s.input i)) }

/-- One binding's press state changed. -/
def State.modPress (s : State) (b : BindIx) (f : Press → Press) : State :=
  { s with presses := s.presses.set b (f (s.press b)) }

/-! ## Timers and the clock (log 2) -/

/-- What a timer reads at a moment, in microseconds. -/
def Timer.value (t : Timer) (now : Nat) : Nat :=
  match t with
  | .stopped us => us
  | .running since => now - since

/-- A timer runs. -/
def Timer.isRunning : Timer → Bool
  | .stopped _ => false
  | .running _ => true

/-- A running timer's moment of reaching a time given in ms. -/
def Timer.due (t : Timer) (after : Nat) : Option Nat :=
  match t with
  | .stopped _ => none
  | .running since => some (since + ms after)

/-- Stopped at the value it reads (log 27). -/
def Timer.halt (t : Timer) (now : Nat) : Timer := .stopped (t.value now)

/-- Started from 0 when it is stopped; left running otherwise (R53, R54). -/
def Timer.startIfStopped (t : Timer) (now : Nat) : Timer :=
  match t with
  | .stopped _ => .running now
  | .running since => .running since

/-- A timer of a periodic event, running again from the moment at which it fell due. -/
def Timer.again (t : Timer) (after : Nat) : Timer :=
  match t with
  | .stopped us => .stopped us
  | .running since => .running (since + ms after)

/-- Copies the waiting stages of every PWM output to the active stages (R78, R144). -/
def State.copyStages (s : State) : State :=
  { s with
    dims := s.dims.map (fun d => { d with active := d.waiting })
    mots := s.mots.map (fun c => { c with speedActive := c.speedWaiting }) }

/-- LISTEN or READY: the modes in which the node sends, delivers every kind and takes up commands (Table 1-6). -/
def State.active (s : State) : Bool := s.mode == .listen || s.mode == .ready

/-- An image has been taken and the node was not stopped by its check: LISTEN, READY, or SILENT after a clash. -/
def State.built (s : State) : Bool := s.active || (s.mode == .silent && s.link.clashed)

/-- The run count at which a change is accepted (R126, R127). -/
def acceptAt : Role → Nat
  | .pulse _ => 4
  | .none | .flag | .key | .stowEnd _ | .deployEnd _ | .hold _ | .guard _ | .estop => 21

/-- The interval at which an input is sampled, in microseconds (R126, R127). -/
def sampleUs : Role → Nat
  | .pulse _ => Config.pulseUs
  | .none | .flag | .key | .stowEnd _ | .deployEnd _ | .hold _ | .guard _ | .estop => Config.inputUs

/-- The moment of the first samples, from which the filters run in LISTEN, in READY and in SILENT after a clash (R128). -/
def State.firstSample (s : State) : Option Nat :=
  match s.inputTimer with
  | .stopped _ => none
  | .running first => if s.built then some first else none

/-- The samples of an input that fall after the moment of the clock and up to another: every interval from the first
samples on, and none while no input is sampled (R126, R127, R128). -/
def State.samplesTo (s : State) (i : InIx) (t : Nat) : Nat :=
  match s.firstSample with
  | none => 0
  | some first => (t - first) / sampleUs s.cfg.roles[i] - (s.now - first) / sampleUs s.cfg.roles[i]

/-- An input record after so many samples of a raw level: equal to the filtered state it sets the run count to 0, and
different from it it raises the run count; where the raised count reaches the count of acceptance, the change is accepted
and the run count returns to 0 (R126, R127, R124). -/
def InputRec.sampled (r : InputRec) (accept : Nat) (raw : Bool) (n : Nat) : InputRec :=
  if n = 0 ∨ r.accepted then r
  else if raw = r.filtered then { r with runCount := 0 }
  else if accept ≤ r.runCount + n then { r with runCount := 0, accepted := true }
  else { r with runCount := r.runCount + n }

/-- The input's filter has accepted a change that has not yet been handed on (R126, R127). -/
def State.hasAccepted (s : State) (i : InIx) : Bool := s.firstSample.isSome && (s.input i).accepted

/-- The moment at which an input's filter accepts a change, while its raw level stays as it is (R126, R127). -/
def State.acceptDue (s : State) (i : InIx) : Option Nat :=
  match s.firstSample with
  | none => none
  | some first =>
    if s.hasAccepted i then some s.now
    else if s.pins[i] = (s.input i).filtered then none
    else
      some (first + sampleUs s.cfg.roles[i] *
        ((s.now - first) / sampleUs s.cfg.roles[i] + max 1 (acceptAt s.cfg.roles[i] - (s.input i).runCount)))

/-- The clock at a later moment: it does not run backward. The inputs take the samples that fall on the way, and where a
PWM period begins on the way the outputs take their waiting stages (R126, R127, R78; log 2, log 17). -/
def State.clockTo (s : State) (t : Nat) : State :=
  if t ≤ s.now then s
  else
    let s' := { s with
      now := t
      inputs := Vector.ofFn (fun i : InIx =>
        (s.input i).sampled (acceptAt s.cfg.roles[i]) s.pins[i] (s.samplesTo i t)) }
    if s.now / Config.pwmUs < t / Config.pwmUs then s'.copyStages else s'

/-! ## Commands as taken up, and the work of an event -/

/-- A command as taken up: origin, tag, adjusted level, answer wanted, channel kind and index, verb code, argument
bytes (R106). -/
structure Cmd where
  origin : NodeId
  tag : Nat
  level : Nat
  wanted : Bool
  kind : Nat
  index : Nat
  verb : Nat
  args : List Byte
  deriving DecidableEq, Repr

/-- What changed, for the interlock entries that name it (R170). -/
inductive LockEvent where
  | peer (n : NodeId)
  | ownPosture (m : MotIx)
  | ownFlag (i : Nat)
  deriving DecidableEq, Repr

/-- A piece of work that an event still has to do, at the moment it arises (log 6). -/
inductive Act where
  /-- A block offers a frame to the Link Controller (R9, R10). -/
  | offer (f : TxFrame)
  /-- The Link Controller reports the end of a frame's life (R15). -/
  | report (sent : Bool) (f : TxFrame)
  /-- The channel has become IDLE: its first pending entry is taken (R118). -/
  | take (m : MotIx)
  /-- The sibling trips of a trip are given (R166). -/
  | siblings
  /-- The stop latch is set, where a STATUS shows E-stop held (R24, R172). -/
  | latch
  /-- The running evaluation of the channel's interlock entries (R170). -/
  | evalLocks (m : MotIx) (e : LockEvent)
  /-- The channel's own claim meets an arrived claim (R70). -/
  | contend (m : MotIx) (g : SegIx) (level : Nat) (claimant : NodeId)
  /-- An accepted input change reaches the block of the input's role (R129). -/
  | inputRole (i : InIx) (active : Bool)
  /-- A key binding's own-node command is taken up (R106). -/
  | command (c : Cmd)
  deriving DecidableEq, Repr

/-- An operation: the state it leaves, and the work that follows it. -/
abbrev Op := State → State × List Act

/-- Only a change of state. -/
def Op.set (f : State → State) : Op := fun s => (f s, [])

/-- Only work, read from the state. -/
def Op.emit (f : State → List Act) : Op := fun s => (s, f s)

/-- Nothing. -/
def Op.skip : Op := fun s => (s, [])

/-- One operation and then another; the work of the first comes before that of the second. -/
def Op.andThen (a b : Op) : Op := fun s => ((b (a s).1).1, (a s).2 ++ (b (a s).1).2)

/-- Operations one after another. -/
def Op.chain : List Op → Op
  | [] => Op.skip
  | a :: rest => Op.andThen a (Op.chain rest)

/-- An operation for each of a list, in its order. -/
def Op.each {α : Type} (f : α → Op) (l : List α) : Op := Op.chain (l.map f)

/-- One operation or another, as the state says. -/
def Op.cond (c : State → Bool) (a b : Op) : Op := fun s => if c s then a s else b s

/-- Work in one of two orders, where the manual says either may be taken first: a free value chooses (log 5). -/
def Op.eitherFirst (a b : State → List Act) : Op := fun s =>
  ({ s with choices := s.choices + 1 }, if Config.eitherFirst s.choices then a s ++ b s else b s ++ a s)

/-- A change of state for each of a list, in its order. -/
def foldState {α : Type} (f : α → State → State) (l : List α) (s : State) : State :=
  l.foldl (fun t a => f a t) s

/-- The four motion channels in index order. -/
def allMots : List MotIx := List.finRange 4
/-- The twelve dimmer channels in index order. -/
def allDims : List DimIx := List.finRange 12
/-- The four segments in index order. -/
def allSegs : List SegIx := List.finRange 4
/-- The eight key bindings in binding order. -/
def allBinds : List BindIx := List.finRange 8
/-- The sixteen inputs in index order. -/
def allInputs : List InIx := List.finRange 16
/-- The node ids 0..31. -/
def allIds : List NodeId := List.finRange 32

/-- The channel is moving (chapter 9, after Table 9-4). -/
def MotionState.isMoving : MotionState → Bool
  | .claiming | .starting | .running | .stopping => true
  | .idle | .settling | .tripped => false

/-- The channel is energized (chapter 9, after Table 9-4). -/
def MotionState.isEnergized : MotionState → Bool
  | .starting | .running | .stopping => true
  | .idle | .claiming | .settling | .tripped => false

/-- The origin is in the safety-origin list (R106); a list slot holding 0 is unused. -/
def NodeConfig.isSafety (cfg : NodeConfig) (n : NodeId) : Bool :=
  decide (n ≠ 0) && cfg.safety.toList.contains n

/-- The adjusted level of a raw level by its origin (R106). -/
def NodeConfig.adjust (cfg : NodeConfig) (origin : NodeId) (raw : Nat) : Nat :=
  if cfg.isSafety origin then raw else if raw < 16 then raw + 16 else raw

/-- A command is in the override band: from a safety origin at an adjusted level in 0..7 (R106). -/
def NodeConfig.isOverride (cfg : NodeConfig) (origin : NodeId) (level : Nat) : Bool :=
  cfg.isSafety origin && decide (level ≤ 7)

end Sys2Proof.Machine
end

