-- ==== Sys2Proof/Machine/Flags.lean ====
section
/-! DEFINITION. What the node derives from its state for others to read: contacts and inputs by role (R125), postures
(R160), flags (Table 0-3), mode bits (Table 2-6) and the contents of the own STATUS (R32). -/

namespace Sys2Proof.Machine

/-- The input that holds a role after resolution, the lowest-numbered one (R125). -/
def NodeConfig.roleInput (cfg : NodeConfig) (r : Role) : Option InIx :=
  allInputs.find? (fun i => cfg.roles[i] == r)

/-- Some input holds the role. -/
def NodeConfig.hasRole (cfg : NodeConfig) (r : Role) : Bool := (cfg.roleInput r).isSome

/-- The input holding the role is active (its filtered state); false where no input holds it. -/
def State.roleActive (s : State) (r : Role) : Bool :=
  match s.cfg.roleInput r with
  | some i => (s.input i).filtered
  | none => false

/-- E-stop held: the filtered state of the ESTOP input (Table 11-3). -/
def State.estopHeld (s : State) : Bool := s.roleActive .estop

/-- The channel keeps a position: it is configured and has a pulse input (R156). -/
def State.hasPulse (s : State) (m : MotIx) : Bool :=
  (s.motCfg m).configured && s.cfg.hasRole (.pulse m)

/-- The end contact a direction leads to: deploy for OUT, stow for IN (R148). -/
def endRole (m : MotIx) : Dir → Role
  | .outward => .deployEnd m
  | .inward => .stowEnd m

/-- Both end contacts of the channel are active (R139, test 3). -/
def State.bothContacts (s : State) (m : MotIx) : Bool :=
  s.roleActive (.stowEnd m) && s.roleActive (.deployEnd m)

/-- Table 10-3, read from the top (R160). -/
def State.derivePosture (s : State) (m : MotIx) : Posture :=
  let c := (s.mot m)
  let cfg := (s.motCfg m)
  if !cfg.configured then .absent
  else if c.state = .tripped then .fault
  else if c.state.isMoving && c.direction = some .outward then .outbound
  else if c.state.isMoving && c.direction = some .inward then .inbound
  else if s.bothContacts m then .unknown
  else if s.roleActive (.stowEnd m) then .stowed
  else if s.roleActive (.deployEnd m) then .deployed
  else if c.referenced && decide (c.position ≤ (cfg.stowBand : Int)) then .stowed
  else if c.referenced && decide (c.position ≥ (cfg.travel : Int) - (cfg.deployBand : Int)) then .deployed
  else if c.referenced then .between
  else .unknown

/-- Posture codes (Table 10-2). -/
def Posture.code : Posture → Nat
  | .unknown => 0 | .stowed => 1 | .deployed => 2 | .between => 3
  | .outbound => 4 | .inbound => 5 | .fault => 6 | .absent => 7

/-- The posture of a code; a code outside 0..7 is UNKNOWN (R20). -/
def Posture.ofCode : Nat → Posture
  | 1 => .stowed | 2 => .deployed | 3 => .between
  | 4 => .outbound | 5 => .inbound | 6 => .fault | 7 => .absent
  | _ => .unknown

/-- The own flag F_i as it now stands: a filtered input for 0..15, a soft flag for 16..19 (R168, Table 0-3). -/
def State.ownFlag (s : State) (i : Nat) : Bool :=
  if h : i < 16 then (s.input ⟨i, h⟩).filtered
  else if h' : i - 16 < 4 then s.softFlags[i - 16]
  else false

/-- The twenty own flags as one field, F0 at bit 0 (R32, Table 13-2). -/
def State.flagWord (s : State) : BitVec 20 :=
  BitVec.ofNat 20 ((List.range 20).foldl (fun acc i => acc + if s.ownFlag i then 2 ^ i else 0) 0)

/-- The six mode bits as they stand (Table 2-6). -/
def State.modeBits (s : State) : ModeBits :=
  { ready := s.mode == .ready
    stopLatch := s.stopLatch
    estopHeld := s.estopHeld
    partialCue := s.partialCue
    txError := decide (s.link.errors ≠ 0)
    tripped := allMots.any (fun m => (s.mot m).state == .tripped) }

/-- The contents of the own STATUS as they stand (R32). -/
def State.contents (s : State) : StatusContents :=
  { bits := s.modeBits
    draws := Vector.ofFn (fun g : SegIx => min (s.seg g).own Config.maxDraw)
    postures := Vector.ofFn (fun m : MotIx => s.derivePosture m)
    flags := s.flagWord }

/-- Two draws differ by 20 dA or more, in either direction (R30). -/
def drawMoved (a b : Nat) : Bool := decide (a + Config.drawStep ≤ b) || decide (b + Config.drawStep ≤ a)

/-- Some value of the own STATUS is an early cause against the last published values (R30). -/
def StatusContents.earlyCause (last now : StatusContents) : Bool :=
  decide (last.postures ≠ now.postures) || decide (last.flags ≠ now.flags) || decide (last.bits ≠ now.bits) ||
    allSegs.any (fun g => drawMoved last.draws[g] now.draws[g])

end Sys2Proof.Machine
end

