-- ==== Sys2Proof/Machine/Operands.lean ====
section
/-! DEFINITION. The operands of the commands: the payloads the node sends (Table 13-2), the fields it reads from a
received STATUS, CLAIM, SCENE and COMMAND (R181, R20, R61, R95, R106) and the configuration it takes from an image
(R175, R176, R182, R125). -/

namespace Sys2Proof.Machine

/-! ## Payloads sent (Table 13-2) -/

/-- A byte of a number, modulo 256. -/
def byteOf (v : Nat) : Byte := BitVec.ofNat 8 v

/-- Two bytes, little-endian (chapter 13). -/
def le16Bytes (v : Nat) : List Byte := [byteOf v, byteOf (v / 256)]

/-- Reason codes (Table 13-4). -/
def Reason.code : Reason → Nat
  | .badArgument => 1 | .notPermitted => 2 | .notReady => 3 | .stopped => 4 | .tripped => 5
  | .outranked => 6 | .full => 7 | .budget => 8 | .interlock => 9 | .unreferenced => 10 | .sensor => 11

/-- Outcome codes (Table 13-4). -/
def Outcome.code : Outcome → Nat
  | .taken => 0 | .queued => 1 | .refused _ => 2 | .displaced => 3 | .expired => 4 | .cancelled => 5

/-- The reason byte of an ANSWER: 0 unless the outcome is REFUSED (Table 13-2). -/
def Outcome.reasonCode : Outcome → Nat
  | .refused r => r.code
  | _ => 0

/-- STOP reason codes (Table 13-4). -/
def StopReason.code : StopReason → Nat
  | .panel => 0 | .estopInput => 1 | .rebroadcast => 2

/-- The mode bits byte (Table 13-2). -/
def ModeBits.byte (b : ModeBits) : Nat :=
  (if b.ready then 1 else 0) + (if b.stopLatch then 2 else 0) + (if b.estopHeld then 4 else 0) +
    (if b.partialCue then 8 else 0) + (if b.txError then 16 else 0) + (if b.tripped then 32 else 0)

/-- The posture field (Table 13-2): four bits for each channel. -/
def StatusContents.postureWord (c : StatusContents) : Nat :=
  c.postures[0].code + 16 * c.postures[1].code + 256 * c.postures[2].code + 4096 * c.postures[3].code

/-- The payload of a frame the node sends (Table 13-2); unnamed bits are 0 (R180). -/
def TxBody.payload : TxBody → List Byte
  | .stop r => [byteOf r.code]
  | .claim tag g amount hold => [byteOf (tag.val + 8 * g.val)] ++ le16Bytes amount ++ [byteOf hold]
  | .command p => p
  | .answer a tag o => [byteOf a.val, byteOf tag, byteOf o.code, byteOf o.reasonCode]
  | .status seq c =>
    [byteOf seq, byteOf c.bits.byte] ++ le16Bytes c.draws[0] ++ le16Bytes c.draws[1] ++ le16Bytes c.draws[2] ++
      le16Bytes c.draws[3] ++ le16Bytes c.postureWord ++
      [byteOf c.flags.toNat, byteOf (c.flags.toNat / 256), byteOf (c.flags.toNat / 65536)]

/-- The kind of a frame the node sends (R5). -/
def TxBody.kind : TxBody → Kind
  | .stop _ => .stop
  | .claim _ _ _ _ => .claim
  | .command _ => .command
  | .answer _ _ _ => .answer
  | .status _ _ => .status

/-- The frame as bits on the line, under the own id (R4, R180). -/
def TxFrame.bits (f : TxFrame) (ownId : NodeId) : List Bool :=
  frameBits f.level f.body.kind.code ownId.val f.body.payload

/-- The payload of a COMMAND the node sends for a key binding (Tables 13-2 and 13-3). -/
def commandPayload (target : NodeId) (tag : Nat) (wanted : Bool) (index kind verb : Nat) (args : List Byte) :
    List Byte :=
  [byteOf target.val, byteOf (tag + if wanted then 16 else 0), byteOf (index + 16 * kind), byteOf verb] ++ args

/-! ## Fields received -/

/-- The mode bits of a received STATUS (Table 13-2). -/
def readModeBits (b : Nat) : ModeBits :=
  ⟨b.testBit 0, b.testBit 1, b.testBit 2, b.testBit 3, b.testBit 4, b.testBit 5⟩

/-- The contents of a received STATUS as an entry stores them (R20): a draw above 32767 as 32767, a posture code
outside 0..7 as UNKNOWN. -/
def readStatus (p : List Byte) : StatusContents :=
  { bits := readModeBits (byteAt p 1)
    draws := Vector.ofFn (fun g : SegIx => min (le16 p (2 + 2 * g.val)) Config.maxDraw)
    postures := Vector.ofFn (fun m : MotIx => Posture.ofCode (bitField (le16 p 10) (4 * m.val) 4))
    flags := BitVec.ofNat 20 (le24 p 12) }

/-- A received CLAIM's tag, bits 0..2 of byte 0. -/
def claimTag (p : List Byte) : Nat := bitField (byteAt p 0) 0 3
/-- A received CLAIM's segment, bits 3..4 of byte 0. -/
def claimSegment (p : List Byte) : SegIx := Fin.ofNat 4 (bitField (byteAt p 0) 3 2)
/-- A received CLAIM's amount; above 10000 it is stored as 10000 (R61). -/
def claimAmount (p : List Byte) : Nat := min (le16 p 1) 10000
/-- A received CLAIM's hold in units of 10 ms; 0 is taken as 1 (R61). -/
def claimHold (p : List Byte) : Nat := max 1 (byteAt p 3)

/-- A received SCENE's target. -/
def sceneTarget (p : List Byte) : NodeId := idField (byteAt p 0)
/-- A received SCENE's scene number. -/
def sceneNumber (p : List Byte) : Nat := byteAt p 1
/-- A received SCENE's part index. -/
def scenePart (p : List Byte) : Nat := bitField (byteAt p 2) 0 2
/-- A received SCENE's part count. -/
def sceneParts (p : List Byte) : Nat := bitField (byteAt p 2) 2 2
/-- A received SCENE's fade time; above 6000 it is taken as 6000 (R95). -/
def sceneFade (p : List Byte) : Nat := min (le16 p 3) 6000
/-- A received SCENE's entries as (channel index, level): as many as the length carries (R95). -/
def sceneEntries (p : List Byte) : List (Nat × Nat) :=
  (List.range ((p.length - 5) / 2)).map
    (fun e => (bitField (le16 p (5 + 2 * e)) 12 4, min (bitField (le16 p (5 + 2 * e)) 0 12) Config.fullLevel))

/-- The command that a COMMAND frame for the own id is taken up as: its source is the origin, its level is adjusted by
origin (R106). -/
def frameCmd (cfg : NodeConfig) (f : Frame) : Cmd :=
  { origin := frameSource f
    tag := cmdTag f.payload
    level := cfg.adjust (frameSource f) f.level.toNat
    wanted := cmdWanted f.payload
    kind := cmdKind f.payload
    index := cmdIndex f.payload
    verb := cmdVerb f.payload
    args := cmdArgs f.payload }

/-- The mode bit 1 of a MOVE's or HOME's argument byte 0 (Table 13-3). -/
def argMode (args : List Byte) : HoldMode := if (byteAt args 0).testBit 1 then .holdToRun else .latched

/-- A MOVE as a channel of this travel takes it: direction, mode, speed and target by bits 0..3 of argument byte 0,
the target brought into 0..Travel (Table 7-1, Table 13-3, R181). -/
def readMove (c : Cmd) (travel : Nat) : MotionCmd :=
  { origin := c.origin, tag := c.tag, level := c.level, verb := .move
    mode := argMode c.args
    dir := if (byteAt c.args 0).testBit 0 then .inward else .outward
    target := if (byteAt c.args 0).testBit 3 then some (min (le24 c.args 1) travel) else none
    speed := if (byteAt c.args 0).testBit 2 then .slow else .full
    wanted := c.wanted }

/-- A HOME: direction IN, no target, speed select SLOW, the mode its frame gives (R138). -/
def readHome (c : Cmd) : MotionCmd :=
  { origin := c.origin, tag := c.tag, level := c.level, verb := .home
    mode := argMode c.args
    dir := .inward, target := none, speed := .slow, wanted := c.wanted }

/-- The dimmer channel a command names, when it is configured (R77, R107). -/
def State.dimmerOf (s : State) (c : Cmd) : Option DimIx :=
  if h : c.index < 12 then if (s.dimCfg ⟨c.index, h⟩).configured then some ⟨c.index, h⟩ else none else none

/-- The motion channel a command names, when it is configured (R107, R135). -/
def State.motionOf (s : State) (c : Cmd) : Option MotIx :=
  if h : c.index < 4 then if (s.motCfg ⟨c.index, h⟩).configured then some ⟨c.index, h⟩ else none else none

/-! ## The configuration image (R175, R176, R182, R125) -/

/-- The bytes the loader reads: as many as the layout occupies; where the memory gives fewer, the idle level of the
data line, all ones (R174, R175; log 18). -/
def imageBytes (image : List Byte) : List Byte :=
  image.take Config.imageSize ++ List.replicate (Config.imageSize - image.length) 0xFF#8

/-- The sum of the image's words, little-endian, modulo 65536 (R175, R182). -/
def imageSum (p : List Byte) : Nat :=
  ((List.range (Config.imageSize / 2)).foldl (fun acc w => acc + le16 p (2 * w)) 0) % 65536

/-- The image is valid (R175). -/
def imageValid (p : List Byte) : Bool :=
  decide (imageSum p = 0) && decide (byteAt p 0 = 1) && decide (1 ≤ byteAt p 1 ∧ byteAt p 1 ≤ 31)

/-- A safety-origin list slot; 0 or above 31 is unused (R176). -/
def readSafety (p : List Byte) (i : Nat) : NodeId :=
  if byteAt p (2 + i) ≤ 31 then idField (byteAt p (2 + i)) else 0

/-- A segment record (Table 13-5), clamped to the ranges of Table 3-1. -/
def readSeg (p : List Byte) (g : SegIx) : SegCfg :=
  let o := 6 + 6 * g.val
  ⟨clampNat 1 30000 (le16 p o), clampNat 0 5000 (le16 p (o + 2)), clampNat 0 10000 (le16 p (o + 4))⟩

/-- A shed level brought into range against MinOn: one in 1..MinOn-1 is raised to MinOn (R56, R76). -/
def resolveShedLevel (minOn level : Nat) : Nat := if 0 < level ∧ level < minOn then minOn else level

/-- A dimmer record (Table 13-6), clamped to the ranges of Table 5-1. -/
def readDim (p : List Byte) (d : DimIx) : DimCfg :=
  let o := 30 + 9 * d.val
  let b := byteAt p o
  let minOn := clampNat 0 4095 (le16 p (o + 3))
  { configured := b.testBit 0
    segment := Fin.ofNat 4 (bitField b 1 2)
    rating := clampNat 1 500 (le16 p (o + 1))
    minOn := minOn
    shedClass := clampNat 0 2 (bitField b 3 2)
    shedLevel := resolveShedLevel minOn (clampNat 0 4095 (le16 p (o + 5)))
    cued := b.testBit 5
    startLevel := clampNat 0 4095 (le16 p (o + 7)) }

/-- The stall time brought into range: 0, or 200..5000 (R135). -/
def resolveStall (v : Nat) : Nat := if v = 0 then 0 else clampNat 200 5000 v

/-- An edge selection; 3 becomes BOTH (R182). -/
def readEdge : Nat → Edge
  | 0 => .rising
  | 1 => .falling
  | _ => .both

/-- A motion record (Table 13-6), clamped to the ranges of Table 9-1; `localHold` is as stored, before R125. -/
def readMot (p : List Byte) (m : MotIx) : MotCfg :=
  let o := 138 + 34 * m.val
  let b := byteAt p o
  let travel := clampNat 1 8000000 (le24 p (o + 22))
  { configured := b.testBit 0
    segment := Fin.ofNat 4 (bitField b 1 2)
    claimAmount := clampNat 1 10000 (le16 p (o + 1))
    claimHold := clampNat 1 255 (byteAt p (o + 3))
    inrushTrip := clampNat 1 20000 (le16 p (o + 4))
    runTrip := clampNat 1 20000 (le16 p (o + 6))
    scale := clampNat 1 20000 (le16 p (o + 8))
    deadTime := clampNat 50 2000 (le16 p (o + 10))
    stallTime := resolveStall (le16 p (o + 12))
    fullSpeed := clampNat 0 4095 (le16 p (o + 14))
    slowSpeed := clampNat 0 4095 (le16 p (o + 16))
    rampUp := clampNat 0 500 (le16 p (o + 18))
    rampDown := clampNat 0 500 (le16 p (o + 20))
    travel := travel
    stowBand := min (le24 p (o + 25)) travel
    deployBand := min (le24 p (o + 28)) travel
    slowBand := min (le24 p (o + 31)) travel
    localHold := b.testBit 3
    siblingTrip := b.testBit 4
    edge := readEdge (bitField b 5 2) }

/-- An input record's role code and channel bits (Table 13-6); a code above 8 is NONE, and channel bits are read only
for the roles that name a channel (R125, R182). -/
def readRole (p : List Byte) (i : InIx) : Role :=
  let b := byteAt p (274 + i.val)
  let m : MotIx := Fin.ofNat 4 (bitField b 4 2)
  match bitField b 0 4 with
  | 1 => .flag
  | 2 => .key
  | 3 => .stowEnd m
  | 4 => .deployEnd m
  | 5 => .pulse m
  | 6 => .hold m
  | 7 => .guard m
  | 8 => .estop
  | _ => .none

/-- The channel a role names (Table 8-1). -/
def Role.channel : Role → Option MotIx
  | .stowEnd m | .deployEnd m | .pulse m | .hold m | .guard m => Option.some m
  | .none | .flag | .key | .estop => Option.none

/-- The role may be held by one input only (R125, step 2). -/
def Role.single : Role → Bool
  | .stowEnd _ | .deployEnd _ | .pulse _ | .hold _ | .guard _ | .estop => true
  | .none | .flag | .key => false

/-- R125, step 1: a role that names an unconfigured channel becomes NONE. -/
def dropUnconfigured (mots : Vector MotCfg 4) (r : Role) : Role :=
  match r.channel with
  | some m => if mots[m].configured then r else .none
  | none => r

/-- R125, step 2: of the inputs that name one single role the lowest-numbered keeps it; the others become NONE. -/
def dropRepeats (roles : Vector Role 16) : Vector Role 16 :=
  Vector.ofFn (fun i : InIx =>
    if roles[i].single && allInputs.any (fun j => decide (j < i) && roles[j] == roles[i]) then .none else roles[i])

/-- The resolved roles (R125, steps 1 and 2). -/
def resolveRoles (mots : Vector MotCfg 4) (raw : Vector Role 16) : Vector Role 16 :=
  dropRepeats (raw.map (dropUnconfigured mots))

/-- An interlock record (Table 13-6), clamped as R176 and R182 give. -/
def readLock (p : List Byte) (n : Nat) : LockEntry :=
  let o := 290 + 4 * n
  let b := byteAt p o
  let dirs := bitField b 2 2
  { channel := Fin.ofNat 4 (bitField b 0 2)
    onOut := decide (dirs ≠ 2)
    onIn := decide (2 ≤ dirs)
    subject := idField (min 31 (byteAt p (o + 1)))
    test :=
      if b.testBit 4 then .flag (min 19 (byteAt p (o + 2))) (decide (byteAt p (o + 3) ≠ 0))
      else .posture (Fin.ofNat 4 (bitField (byteAt p (o + 2)) 0 2)) (byteOf (byteAt p (o + 3))) }

/-- A key binding record (Table 13-6): target and level clamped, the rest as stored (R182). -/
def readBinding (p : List Byte) (n : Nat) : Binding :=
  let o := 354 + 12 * n
  { input := Fin.ofNat 16 (bitField (byteAt p o) 0 4)
    target := idField (min 31 (byteAt p (o + 1)))
    index := bitField (byteAt p (o + 2)) 0 4
    kind := bitField (byteAt p (o + 2)) 4 2
    verb := byteAt p (o + 3)
    level := min 31 (byteAt p (o + 4))
    mode := if (byteAt p (o + 5)).testBit 0 then .holdToRun else .latched
    wanted := (byteAt p (o + 5)).testBit 1
    args := (List.range 6).map (fun k => byteOf (byteAt p (o + 6 + k))) }

/-- The configuration a valid image gives (R176, R182), with roles and hold sources resolved (R125). -/
def readConfig (p : List Byte) : NodeConfig :=
  let mots := Vector.ofFn (fun m : MotIx => readMot p m)
  let roles := resolveRoles mots (Vector.ofFn (fun i : InIx => readRole p i))
  { ownId := idField (byteAt p 1)
    safety := Vector.ofFn (fun i : Fin 4 => readSafety p i.val)
    segs := Vector.ofFn (fun g : SegIx => readSeg p g)
    dims := Vector.ofFn (fun d : DimIx => readDim p d)
    mots := Vector.ofFn (fun m : MotIx =>
      { mots[m] with localHold := mots[m].localHold && roles.toList.contains (.hold m) })
    roles := roles
    locks := Vector.ofFn (fun n : Fin 16 => readLock p n.val)
    binds := Vector.ofFn (fun n : Fin 8 => readBinding p n.val) }

end Sys2Proof.Machine
end

