-- ==== Sys2Proof/Machine/Link.lean ====
section
/-! DEFINITION. The Link Controller: reception by node mode (R1, R6, R7, R8), the transmit queue (R9, R10), the STATUS
slot (R11), the choice at an idle (R12), the ends of an attempt (R3, R13, R15) and the transmit-error count (R14). -/

namespace Sys2Proof.Machine

/-- What becomes of an arrived frame. -/
inductive Reception where
  /-- Not received, discarded or dropped: no effect (R1, R6, R8). -/
  | nothing
  /-- An id clash (R7, R16). -/
  | clash
  /-- Delivered to the block that owns its kind (R7). -/
  | delivered
  deriving DecidableEq, Repr

/-- The Link Controller receives frames: an image has been taken, the line has been seen idle since LOADING, and the
mode is not SILENT after a failed check (R1, Table 1-6). -/
def State.receives (s : State) : Bool := s.built && s.link.joined

/-- An arrived frame of the kind a row is about, through R6, R7, R8 and R16. A frame bearing the own id is one the
node did not send through to its end mark: its own frames end in FRAME_SENT (log 13). -/
def State.reception (s : State) (k : Kind) (f : Frame) : Reception :=
  if !s.receives then .nothing
  else if !frameSound f then .nothing
  else if f.kind.toNat ≠ k.code then .nothing
  else if frameSource f = s.cfg.ownId then (if s.link.clashed then .nothing else .clash)
  else if s.mode = .silent && k ≠ .status then .nothing
  else .delivered

/-- The first frame is not worse than the second in the order of R9, age apart: level, then kind code. -/
def TxFrame.notWorse (a b : TxFrame) : Bool :=
  decide (a.level < b.level) || (decide (a.level = b.level) && decide (a.body.kind.code ≤ b.body.kind.code))

/-- A frame put at its place: after every frame of the same level and kind, before any it outranks (R9). -/
def insertFrame (f : TxFrame) : List TxFrame → List TxFrame
  | [] => [f]
  | x :: xs => if x.notWorse f then x :: insertFrame f xs else f :: x :: xs

/-- The worst queued frame, leaving out the one on the line, and the queue without it (R10). -/
def removeWorst : List TxFrame → Option (TxFrame × List TxFrame)
  | [] => none
  | x :: xs =>
    match removeWorst xs with
    | some (w, rest) => some (w, x :: rest)
    | none => if x.onLine then none else some (x, xs)

/-- The transmit-error count one higher, saturating (R14). -/
def Link.raiseErrors (l : Link) : Link := { l with errors := min Config.maxErrors (l.errors + 1) }

/-- The Link Controller changed. -/
def State.modLink (s : State) (f : Link → Link) : State := { s with link := f s.link }

/-- A frame offered by a block (R9, R10). In SILENT it is discarded at the offer, without report or count (R17). -/
def offerFrame (f : TxFrame) : Op := fun s =>
  if !s.active then (s, [])
  else if s.link.queue.length < Config.txQueueSize then
    (s.modLink (fun l => { l with queue := insertFrame f l.queue }), [])
  else
    match removeWorst s.link.queue with
    | some (w, rest) =>
      if w.notWorse f then (s.modLink Link.raiseErrors, [.report false f])
      else (s.modLink (fun l => { l.raiseErrors with queue := insertFrame f rest }), [.report false w])
    | none => (s.modLink Link.raiseErrors, [.report false f])

/-- A new frame of a block: no failed attempt, not on the line. -/
def newFrame (level : Nat) (body : TxBody) : TxFrame := ⟨level, body, 0, false⟩

/-- A composed STATUS reaches the slot (R11). -/
def placeStatus (f : TxFrame) (l : Link) : Link :=
  match l.slot with
  | none => { l with slot := some f }
  | some old => if old.onLine then { l with slotNext := some f } else { l with slot := some f }

/-- A frame of the node's own is on the line (R13). -/
def Link.busy (l : Link) : Bool :=
  l.queue.any (fun f => f.onLine) || l.slot.any (fun f => f.onLine)

/-- The head of the queue begins an attempt. -/
def Link.startHead (l : Link) : Link :=
  match l.queue with
  | [] => l
  | f :: rest => { l with queue := { f with onLine := true } :: rest }

/-- The slot's STATUS begins an attempt. -/
def Link.startSlot (l : Link) : Link := { l with slot := l.slot.map (fun f => { f with onLine := true }) }

/-- The choice at an idle: the better of the queue's head and the slot's STATUS, if there is one (R12). -/
def Link.contend (l : Link) : Link :=
  match l.queue.head?, l.slot with
  | some h, some st => if h.notWorse st then l.startHead else l.startSlot
  | some _, none => l.startHead
  | none, some _ => l.startSlot
  | none, none => l

/-- The line becomes idle: the Link Controller joins it, and begins the frame it contends with (R1, R2, R12). -/
def lineBecomesIdle (s : State) : State :=
  let s' := s.modLink (fun l => { l with joined := true })
  if s.active && !s.link.busy then s'.modLink Link.contend else s'

/-- The slot after an attempt of its STATUS ends: the new contents, if any, take it; otherwise what is given stays
(R11). -/
def Link.settleSlot (l : Link) (stays : Option TxFrame) : Link :=
  { l with slot := l.slotNext.or stays, slotNext := none }

/-- The frame of the node's own that is on the line, in the queue (R13). -/
def Link.queuedOnLine (l : Link) : Option TxFrame := l.queue.find? (fun f => f.onLine)

/-- Every queued frame off the line. -/
def Link.releaseQueue (l : Link) : Link :=
  { l with queue := l.queue.map (fun f => { f with onLine := false }) }

/-- Arbitration is lost: the frame keeps its place, and nothing is counted (R3). A loss ends the attempt, so that new contents
of the slot, where they wait for that, take it (R11; log 37). -/
def loseArbitration (s : State) : State :=
  match s.link.queuedOnLine, s.link.slot with
  | some _, _ => s.modLink Link.releaseQueue
  | none, some f =>
    if f.onLine then s.modLink (fun l => l.settleSlot (some { f with onLine := false })) else s
  | none, none => s

/-- A transmit error ends the attempt: the frame's failed attempts rise by one, and at the third it is dropped, with
the transmit-error count's rise and a dropped report (R13, R14, R15). New contents of the slot then take it (R11). -/
def failAttempt : Op := fun s =>
  match s.link.queuedOnLine, s.link.slot with
  | some f, _ =>
    if Config.maxFailed ≤ f.failed + 1 then
      (s.modLink (fun l => { l.raiseErrors with queue := l.queue.filter (fun x => !x.onLine) }), [.report false f])
    else
      (s.modLink (fun l => { l with
        queue := l.queue.map (fun x => if x.onLine then { x with failed := x.failed + 1, onLine := false } else x) }), [])
  | none, some f =>
    if !f.onLine then (s, [])
    else if Config.maxFailed ≤ f.failed + 1 then
      (s.modLink (fun l => l.raiseErrors.settleSlot none), [.report false f])
    else (s.modLink (fun l => l.settleSlot (some { f with failed := f.failed + 1, onLine := false })), [])
  | none, none => (s, [])

/-- The attempt reaches its end mark: the frame leaves the queue or slot, with a sent report (R13, R15). -/
def completeAttempt : Op := fun s =>
  match s.link.queuedOnLine, s.link.slot with
  | some f, _ => (s.modLink (fun l => { l with queue := l.queue.filter (fun x => !x.onLine) }), [.report true f])
  | none, some f =>
    if f.onLine then (s.modLink (fun l => l.settleSlot none), [.report true f]) else (s, [])
  | none, none => (s, [])

/-- The bits of the frame the node has on the line now, if any (R4, R180). -/
def State.lineBits (s : State) : Option (List Bool) :=
  match s.link.queuedOnLine, s.link.slot with
  | some f, _ => some (f.bits s.cfg.ownId)
  | none, some f => if f.onLine then some (f.bits s.cfg.ownId) else none
  | none, none => none

end Sys2Proof.Machine
end

