-- ==== Sys2Proof/Machine/Budget.lean ====
section
/-! DEFINITION. The Budget Unit: draws (R35, R37), the terms of a segment's headroom (R39..R43), the available amount
(R44), the questions about motion (R45, R46), the raise clamp (R48, R49), and the shed state machine's timers (R53,
R54). Entering a shed state and its caps stand in Dimmer.lean. -/

namespace Sys2Proof.Machine

/-- D(v) of a channel of rating C: ceil(C v / 4095) (R35). -/
def dimmerDraw (rating v : Nat) : Nat := ceilDiv (rating * v) Config.fullLevel

/-- A reading brought into 0..1023 (R131). -/
def clampReading (r : Int) : Nat := min r.toNat 1023

/-- A reading converted: floor(S Scale / 1024) (R37). -/
def convertReading (scale r : Nat) : Nat := r * scale / 1024

/-- The draw of the dimmer channel at a level (R35). -/
def State.drawAt (s : State) (d : DimIx) (v : Nat) : Nat := dimmerDraw (s.dimCfg d).rating v

/-- O_s: the booked draws of the configured dimmers and the running draws of the configured motion channels (R39). -/
def State.ownDraw (s : State) (g : SegIx) : Nat :=
  (allDims.map (fun d =>
    if (s.dimCfg d).configured && (s.dimCfg d).segment == g then (s.dim d).booked else 0)).sum +
  (allMots.map (fun m =>
    if (s.motCfg m).configured && (s.motCfg m).segment == g then (s.mot m).running else 0)).sum

/-- A claim is live: WAITING, OPEN or HELD (R40, Table 4-3). -/
def ClaimState.isLive (c : ClaimState) : Bool := c != .none

/-- R_s: the amounts of the live own claims on the segment (R40). -/
def State.ownReserve (s : State) (g : SegIx) : Nat :=
  (allMots.map (fun m =>
    if (s.claim m).state.isLive && (s.claim m).segment == g then (s.claim m).amount else 0)).sum

/-- The amounts of the foreign claims of a peer on a segment (R41). -/
def State.foreignSum (s : State) (n : NodeId) (g : SegIx) : Nat :=
  (s.foreign.map (fun e => if e.claimant == n && e.segment == g then e.amount else 0)).sum

/-- The charge of a peer on a segment, by its freshness (R41). -/
def State.peerCharge (s : State) (n : NodeId) (g : SegIx) : Nat :=
  match (s.peer n).freshness with
  | .fresh | .late => (s.peer n).contents.draws[g] + s.foreignSum n g
  | .lost => max ((s.peer n).contents.draws[g] + s.foreignSum n g) (s.segCfg g).lostFloor
  | .absent | .self => 0

/-- P_s: the charges of the peers on the segment (R42). -/
def State.peerTotal (s : State) (g : SegIx) : Nat := (allIds.map (fun n => s.peerCharge n g)).sum

/-- H_s = L_s - O_s - R_s - P_s, brought into -32768..32767 (R43). -/
def headroomOf (limit own reserve peers : Nat) : Int :=
  clampInt (-32768) 32767 ((limit : Int) - own - reserve - peers)

/-- The shed timers after a recomputation (R52, R53, R54). -/
def Segment.runTimers (r : Segment) (margin now : Nat) : Segment :=
  match r.shed with
  | .normal => { r with deepen := .zero, recovery := .zero }
  | .shed1 =>
    { r with
      deepen := if r.headroom < 0 then r.deepen.startIfStopped now else .zero
      recovery := if (margin : Int) ≤ r.headroom then r.recovery.startIfStopped now else .zero }
  | .shed2 =>
    { r with
      deepen := .zero
      recovery := if (margin : Int) ≤ r.headroom then r.recovery.startIfStopped now else .zero }

/-- The record's terms and headroom recomputed from what they stand for (R39, R40, R42, R43). -/
def State.refreshed (s : State) (g : SegIx) : Segment :=
  { (s.seg g) with
    own := s.ownDraw g
    reserve := s.ownReserve g
    peerCharge := s.peerTotal g
    headroom := headroomOf (s.segCfg g).limit (s.ownDraw g) (s.ownReserve g) (s.peerTotal g) }

/-- A segment's terms are recomputed, and its shed timers follow; in SILENT the shed machine holds (R43, R53, R54,
R59). The entry to SHED-1 is `enterShed1` in Dimmer.lean. -/
def tally (g : SegIx) (s : State) : State :=
  s.modSeg g (fun _ =>
    if s.mode = .silent then s.refreshed g else (s.refreshed g).runTimers (s.segCfg g).margin s.now)

/-- The available amount that a headroom gives: nothing in LISTEN or while the foreign claim list is saturated (R44). -/
def State.availableOf (s : State) (g : SegIx) (h : Int) : Nat :=
  if s.mode = .listen || s.saturated then 0 else (h - ((s.segCfg g).margin : Int)).toNat

/-- A_s (R44). -/
def State.available (s : State) (g : SegIx) : Nat := s.availableOf g (s.seg g).headroom

/-- The admission question (R45). -/
def State.admits (s : State) (g : SegIx) (amount : Nat) : Bool := decide (amount ≤ s.available g)

/-- The margin test (R46). -/
def State.marginTest (s : State) (g : SegIx) : Bool :=
  decide (((s.segCfg g).margin : Int) ≤ (s.seg g).headroom) && !s.saturated

/-- The deficit test (R46). -/
def State.deficit (s : State) (g : SegIx) : Bool := decide ((s.seg g).headroom < ((s.segCfg g).margin : Int))

/-- The room of a dimmer channel: the draw at its applied level, and the available amount with the channel counted at
that draw (R48). -/
def State.room (s : State) (d : DimIx) : Nat :=
  let lc := s.drawAt d (s.dim d).applied
  let g := (s.dimCfg d).segment
  lc + s.availableOf g ((s.seg g).headroom + ((s.dim d).booked : Int) - (lc : Int))

/-- The raise clamp: a target above the applied level, cut to the largest level whose draw fits the room, or to the
applied level where that would be below MinOn (R48, R49). -/
def State.raiseClamp (s : State) (d : DimIx) (target : Nat) : Nat :=
  let cfg := (s.dimCfg d)
  if s.drawAt d target ≤ s.room d then target
  else
    let cut := min target (s.room d * Config.fullLevel / cfg.rating)
    if cut ≠ 0 ∧ cut < cfg.minOn then (s.dim d).applied else cut

end Sys2Proof.Machine
end

