-- ==== Sys2Proof/Machine/Dimmer.lean ====
section
/-! DEFINITION. The Dimmer Unit and the shed states that cap it: applied levels (R79), fades (R80, R81), the path of a
request (R82, R47), shedding (R52, R56, R58), caps and their upkeep (R89, R90), FREEZE (R86), start levels (R91). -/

namespace Sys2Proof.Machine

/-- The applied level written from a value (R79). -/
def appliedFrom (minOn v : Nat) : Nat := if v = 0 then 0 else max v minOn

/-- The on-time of an output in 4096ths of the PWM period, from its active stage: v of them for a level v, and the whole
period for 4095 (R78). -/
def dutyOf (v : Nat) : Nat := if v = Config.fullLevel then 4096 else v

/-- The place of the on-time within the period, in 8192ths of it: it is centred, and so lies half of the off-time from
either end (R78). -/
def onSpan (v : Nat) : Nat × Nat := (4096 - dutyOf v, 4096 + dutyOf v)

/-- An output whose active stage holds a value is on at a moment of the clock, periods beginning at its multiples of 500
microseconds (R78; log 17). -/
def pwmOn (v now : Nat) : Bool :=
  decide (Config.pwmUs * (onSpan v).1 ≤ 8192 * (now % Config.pwmUs)) &&
    decide (8192 * (now % Config.pwmUs) < Config.pwmUs * (onSpan v).2)

/-- The level of a dimmer output at the moment of the clock (R78). -/
def State.dimmerOn (s : State) (d : DimIx) : Bool := pwmOn (s.dim d).active s.now

/-- The level of a channel's speed output at the moment of the clock (R144, R78). -/
def State.speedOn (s : State) (m : MotIx) : Bool := pwmOn (s.mot m).speedActive s.now

/-- The duty of a dimmer output, in 4096ths of the period (R78). -/
def State.dimmerDuty (s : State) (d : DimIx) : Nat := dutyOf (s.dim d).active

/-- The duty of a channel's speed output, in 4096ths of the period (R144, R78). -/
def State.speedDuty (s : State) (m : MotIx) : Nat := dutyOf (s.mot m).speedActive

/-- The value of a fade at a step count: L0 + trunc((T - L0) k / N) (R81). -/
def Fade.valueAt (f : Fade) (k : Nat) : Nat :=
  ((f.l0 : Int) + truncDiv (((f.target : Int) - (f.l0 : Int)) * (k : Int)) (f.steps : Int)).toNat

/-- A fade of a given time in units of 10 ms, from a level (R80). -/
def Fade.begin (from' target time : Nat) : Fade := ⟨from', target, max 1 time, 0⟩

/-- The requested level through range, cap and MinOn (R82, steps 1 to 3). -/
def State.wanted (s : State) (d : DimIx) (q : Nat) : Nat :=
  let q1 := min q Config.fullLevel
  let q2 := if (s.dim d).capped then min q1 (s.dimCfg d).shedLevel else q1
  if 0 < q2 ∧ q2 < (s.dimCfg d).minOn then (s.dimCfg d).minOn else q2

/-- The final target of a request (R82, steps 1 to 4; R47). -/
def State.finalTarget (s : State) (d : DimIx) (q : Nat) : Nat :=
  if (s.dim d).applied < s.wanted d q then s.raiseClamp d (s.wanted d q) else s.wanted d q

/-- A fade begins: it replaces any other, leaves the applied level, and books its draw (R80). -/
def beginFade (d : DimIx) (target time : Nat) (s : State) : State :=
  s.modDim d (fun c =>
    { c with
      fade := some (Fade.begin c.applied target time)
      booked := dimmerDraw (s.dimCfg d).rating (max c.applied target) })

/-- A request brought to its final target and its fade begun, with the segment tallied; the entry to SHED-1 is left to
the caller (R82, R80). -/
def requestCore (d : DimIx) (q time : Nat) (s : State) : State :=
  tally (s.dimCfg d).segment (beginFade d (s.finalTarget d q) (min time 6000) s)

/-- The channel belongs to the segment's shed class (R56). -/
def State.inClass (s : State) (g : SegIx) (cls : Nat) (d : DimIx) : Bool :=
  (s.dimCfg d).configured && (s.dimCfg d).segment == g && (s.dimCfg d).shedClass == cls

/-- The channel's applied level or fade target is above its shed level (R56). -/
def State.aboveShed (s : State) (d : DimIx) : Bool :=
  decide ((s.dimCfg d).shedLevel < (s.dim d).applied) ||
    (s.dim d).fade.any (fun f => decide ((s.dimCfg d).shedLevel < f.target))

/-- The class's channels on the segment are capped, and those above their shed level are re-requested in index order
(R56, R89). -/
def capClass (g : SegIx) (cls : Nat) (s : State) : State :=
  let flagged := foldState (fun d t =>
    if t.inClass g cls d then t.modDim d (fun c => { c with capped := true }) else t) allDims s
  foldState (fun d t =>
    if t.inClass g cls d && t.aboveShed d then requestCore d (t.dimCfg d).shedLevel Config.capFade t else t)
    allDims flagged

/-- The class's channels on the segment are uncapped and keep their levels and fades (R58, R90). -/
def uncapClass (g : SegIx) (cls : Nat) (s : State) : State :=
  foldState (fun d t =>
    if t.inClass g cls d then t.modDim d (fun c => { c with capped := false }) else t) allDims s

/-- A segment in NORMAL whose headroom is below 0 enters SHED-1: the deepen timer starts and class 2 is capped; in
SILENT the machine holds (R52, R56, R59). -/
def enterShed1 (g : SegIx) (s : State) : State :=
  if s.mode ≠ .silent ∧ (s.seg g).shed = .normal ∧ (s.seg g).headroom < 0 then
    capClass g 2 (s.modSeg g (fun r => { r with shed := .shed1, deepen := .running s.now, recovery := .zero }))
  else s

/-- A recomputation of a segment's headroom, taken by its shed state machine too (R43, R52). -/
def recompute (g : SegIx) (s : State) : State := enterShed1 g (tally g s)

/-- Every segment recomputed (R22, R23). -/
def recomputeAll (s : State) : State := foldState recompute allSegs s

/-- A request on a configured dimmer channel (R82). -/
def request (d : DimIx) (q time : Nat) (s : State) : State :=
  enterShed1 (s.dimCfg d).segment (requestCore d q time s)

/-- The cap upkeep: a capped channel whose applied level is above its shed level is re-requested there (R89). -/
def capUpkeep (d : DimIx) (s : State) : State :=
  if (s.dim d).capped && decide ((s.dimCfg d).shedLevel < (s.dim d).applied) then
    request d (s.dimCfg d).shedLevel Config.capFade s
  else s

/-- A fade in progress ends at the present applied level, with its draw rebooked (R86, R92). -/
def endFadeHere (d : DimIx) (s : State) : State :=
  if (s.dim d).fade.isSome then
    recompute (s.dimCfg d).segment
      (s.modDim d (fun c => { c with fade := none, booked := dimmerDraw (s.dimCfg d).rating c.applied }))
  else s

/-- FREEZE: a running fade ends, then the cap upkeep (R86, R89). A FREEZE with no fade in progress changes nothing. -/
def freezeDimmer (d : DimIx) (s : State) : State :=
  if (s.dim d).fade.isSome then capUpkeep d (endFadeHere d s) else s

/-- The applied level, and with it the output's waiting stage, written from a value (R78, R79). -/
def writeLevel (minOn v : Nat) (c : DimmerCh) : DimmerCh :=
  { c with applied := appliedFrom minOn v, waiting := appliedFrom minOn v }

/-- The channel after its fade reaches step k: the level is written, and at k = N the fade ends; the booked draw follows
(R81). -/
def fadeTo (cfg : DimCfg) (f : Fade) (k : Nat) (c : DimmerCh) : DimmerCh :=
  let c' := writeLevel cfg.minOn (f.valueAt k) c
  if f.steps ≤ k then { c' with fade := none, booked := dimmerDraw cfg.rating f.target }
  else { c' with fade := some { f with taken := k }, booked := dimmerDraw cfg.rating (max c'.applied f.target) }

/-- One dimmer channel's fade brought to a step count, with the draw reported (R81). -/
def stepDimmerTo (d : DimIx) (k : Fade → Nat) (s : State) : State :=
  match (s.dim d).fade with
  | none => s
  | some f => recompute (s.dimCfg d).segment (s.modDim d (fadeTo (s.dimCfg d) f (k f)))

/-- One fade tick of a dimmer channel (R81). -/
def stepDimmer (d : DimIx) (s : State) : State := stepDimmerTo d (fun f => f.taken + 1) s

/-- A dimmer channel's fade reaches its last step and ends at its target (R81). -/
def endDimmerFade (d : DimIx) (s : State) : State := stepDimmerTo d (fun f => f.steps) s

/-- Start levels are requested for every configured channel whose start level is above 0, in index order (R91). -/
def applyStartLevels (s : State) : State :=
  foldState (fun d t =>
    if (t.dimCfg d).configured && decide (0 < (t.dimCfg d).startLevel) then
      request d (t.dimCfg d).startLevel Config.startFade t
    else t) allDims s

/-- A preload slot loaded, whatever it held (R88). -/
def loadSlot (d : DimIx) (scene level fade : Nat) (s : State) : State :=
  s.modDim d (fun c => { c with slot := some ⟨scene, level, fade⟩ })

/-- A preload slot emptied (R88). -/
def emptySlot (d : DimIx) (s : State) : State := s.modDim d (fun c => { c with slot := none })

/-- The channel's slot is tagged with the scene (R88). -/
def State.taggedWith (s : State) (n : Nat) (d : DimIx) : Bool :=
  (s.dimCfg d).configured && (s.dim d).slot.any (fun x => x.scene == n)

end Sys2Proof.Machine
end

