-- ==== Sys2Proof/Machine/Scene.lean ====
section
/-! DEFINITION. The Scene Unit: assemblies and their counts (R94, R96..R98), overwrites (R99), discards (R100), cues
and their judgement (R101..R103). -/

namespace Sys2Proof.Machine

/-- The assembly of a scene number. -/
def State.assembly (s : State) (n : Nat) : Option Assembly := s.scenes.find? (fun a => a.scene == n)

/-- The assembly of a scene number changed, if there is one. -/
def State.modScene (s : State) (n : Nat) (f : Assembly → Assembly) : State :=
  { s with scenes := s.scenes.map (fun a => if a.scene = n then f a else a) }

/-- A scene loses a slot to another load: one entry fewer is loaded and one more is lost (R97, R99). -/
def loseEntry (n : Nat) (s : State) : State :=
  s.modScene n (fun a => { a with loaded := a.loaded - 1, lost := a.lost + 1 })

/-- A scene gains a slot. -/
def gainEntry (n : Nat) (s : State) : State := s.modScene n (fun a => { a with loaded := a.loaded + 1 })

/-- The scene a channel's slot would lose to a load with scene n: another scene of 1..255 (Table 6-2, R99). -/
def overwrittenBy (n : Nat) : Option Slot → Option Nat
  | none => none
  | some x => if x.scene = n ∨ x.scene = 0 then none else some x.scene

/-- An assembly is discarded: its slots are emptied and it leaves the order (R100). -/
def discardScene (n : Nat) (s : State) : State :=
  let emptied := foldState (fun d t => if t.taggedWith n d then emptySlot d t else t) allDims s
  { emptied with scenes := emptied.scenes.filter (fun a => a.scene ≠ n) }

/-- A new assembly at the newest place (R96). -/
def createScene (n parts : Nat) (s : State) : State :=
  { s with scenes := s.scenes ++ [⟨n, parts, 0, 0, 0, .zero⟩] }

/-- The assembly an accepted part belongs to is found, or created with the discards that calls for (R96). -/
def findScene (n parts : Nat) (s : State) : State :=
  match s.assembly n with
  | some a => if a.parts = parts then s else createScene n parts (discardScene n s)
  | none =>
    if s.scenes.length < Config.sceneSize then createScene n parts s
    else
      match s.scenes.head? with
      | some oldest => createScene n parts (discardScene oldest.scene s)
      | none => createScene n parts s

/-- An entry that names an index 12..15 or an unconfigured channel: lost, at the part's first reception only (Table
6-2, R98). -/
def loseUnusable (n : Nat) (first : Bool) (s : State) : State :=
  if first then s.modScene n (fun a => { a with lost := a.lost + 1 }) else s

/-- An entry for a configured channel: the slot is loaded, and the counts follow what it held (Table 6-2, R98). -/
def loadEntry (n fade : Nat) (d : DimIx) (level : Nat) (s : State) : State :=
  let held := (s.dim d).slot
  let loaded := loadSlot d n level fade s
  if held.any (fun x => x.scene == n) then loaded
  else
    match overwrittenBy n held with
    | some m => gainEntry n (loseEntry m loaded)
    | none => gainEntry n loaded

/-- One entry of an accepted part (R97, R98). -/
def takeEntry (n fade : Nat) (first : Bool) (e : Nat × Nat) (s : State) : State :=
  if h : e.1 < 12 then
    if (s.dimCfg ⟨e.1, h⟩).configured then loadEntry n fade ⟨e.1, h⟩ e.2 s else loseUnusable n first s
  else loseUnusable n first s

/-- The part's index is in the parts-received set (R98). -/
def State.hasPart (s : State) (n part : Nat) : Bool :=
  match s.assembly n with
  | some a => a.received.getLsbD part
  | none => false

/-- The part recorded and the age timer set running (R96). -/
def recordPart (n part : Nat) (s : State) : State :=
  s.modScene n (fun a => { a with received := a.received ||| (1#3 <<< part), age := .running s.now })

/-- An accepted part of a scene: found or created, recorded, and its entries loaded in frame order (R96..R98). -/
def takePart (n parts part fade : Nat) (entries : List (Nat × Nat)) (s : State) : State :=
  let found := findScene n parts s
  let first := !found.hasPart n part
  foldState (takeEntry n fade first) entries (recordPart n part found)

/-- A received SCENE is accepted (R95). -/
def sceneAccepted (s : State) (p : List Byte) : Bool :=
  decide (sceneTarget p = s.cfg.ownId) && decide (sceneNumber p ≠ 0) && decide (sceneParts p ≠ 0) &&
    decide (scenePart p < sceneParts p)

/-- The slots tagged with a scene are applied through the request path, in index order, and emptied (R101, R103). -/
def applySlots (n : Nat) (s : State) : State :=
  foldState (fun d t =>
    match (t.dim d).slot with
    | some x => if t.taggedWith n d then emptySlot d (request d x.level x.fade t) else t
    | none => t) allDims s

/-- Every part index below the part count is in the parts-received set, and no entry is lost (R102). -/
def Assembly.complete (a : Assembly) : Bool :=
  (List.range a.parts).all (fun i => a.received.getLsbD i) && a.lost == 0

/-- A CUE (R101, R102; scene 0: R103). -/
def applyCue (n : Nat) (s : State) : State :=
  if n = 0 then applySlots 0 s
  else
    match s.assembly n with
    | none => s
    | some a =>
      let applied := applySlots n s
      { applied with partialCue := !a.complete, scenes := applied.scenes.filter (fun b => b.scene ≠ n) }

/-- A SET or NUDGE in CUED mode loads the slot with scene 0 and reports a numbered scene it overwrites (R87, R99). -/
def preload (d : DimIx) (level fade : Nat) (s : State) : State :=
  let loaded := loadSlot d 0 (min level Config.fullLevel) (min fade 6000) s
  match overwrittenBy 0 (s.dim d).slot with
  | some m => loseEntry m loaded
  | none => loaded

/-- A SET's or NUDGE's level and fade: a request in IMMEDIATE mode, a preload in CUED mode (R84, R85, R87). -/
def setLevel (d : DimIx) (level fade : Nat) (s : State) : State :=
  if (s.dimCfg d).cued then preload d level fade s else request d level fade s

/-- The level a NUDGE asks for: the applied level plus the delta, within 0..4095 (R85). -/
def State.nudged (s : State) (d : DimIx) (delta : Int) : Nat :=
  (clampInt 0 (Config.fullLevel : Int) (((s.dim d).applied : Int) + clampInt (-4095) 4095 delta)).toNat

end Sys2Proof.Machine
end

