-- ==== Sys2Proof/Machine/Interlock.lean ====
section
/-! DEFINITION. The interlock table: which entries apply, which hold, and the evaluations of R169 and R170 (R168). -/

namespace Sys2Proof.Machine

/-- The entry applies to a channel moving in a direction (R168). -/
def LockEntry.applies (e : LockEntry) (m : MotIx) (d : Dir) : Bool :=
  decide (e.subject ≠ 0) && e.channel == m && (match d with | .outward => e.onOut | .inward => e.onIn)

/-- The value lies in the allowed set, or equals the required value, for a subject whose postures and flags are
given (R168). -/
def LockTest.satisfied (t : LockTest) (posture : MotIx → Posture) (flag : Nat → Bool) : Bool :=
  match t with
  | .posture ch allowed => allowed.getLsbD (posture ch).code
  | .flag i required => flag i == required

/-- Freshness that the running evaluation accepts: FRESH or LATE (R170). -/
def Freshness.runs : Freshness → Bool
  | .fresh | .late => true
  | .absent | .lost | .self => false

/-- Freshness that a start check or a settle-end check accepts: FRESH (R169). -/
def Freshness.starts : Freshness → Bool
  | .fresh => true
  | .absent | .late | .lost | .self => false

/-- The entry holds, for the freshness an evaluation accepts (R168). -/
def State.lockHolds (s : State) (accepts : Freshness → Bool) (e : LockEntry) : Bool :=
  if e.subject = s.cfg.ownId then e.test.satisfied s.derivePosture s.ownFlag
  else
    accepts (s.peer e.subject).freshness &&
      e.test.satisfied (fun m => (s.peer e.subject).contents.postures[m])
        (fun i => (s.peer e.subject).contents.flags.getLsbD i)

/-- Every applicable entry holds with a FRESH subject or the own node (R169). -/
def State.locksAllowStart (s : State) (m : MotIx) (d : Dir) : Bool :=
  s.cfg.locks.toList.all (fun e => !e.applies m d || s.lockHolds Freshness.starts e)

/-- The entry is one that an event concerns: its subject is the peer, or the own node with the changed posture or flag
named by its test (R170). -/
def LockEntry.concerns (e : LockEntry) (ownId : NodeId) : LockEvent → Bool
  | .peer n => e.subject == n
  | .ownPosture m => e.subject == ownId && (match e.test with | .posture ch _ => ch == m | .flag _ _ => false)
  | .ownFlag i => e.subject == ownId && (match e.test with | .posture _ _ => false | .flag j _ => j == i)

/-- Some applicable entry that the event concerns does not hold in the running evaluation (R170). -/
def State.lockFails (s : State) (m : MotIx) (d : Dir) (ev : LockEvent) : Bool :=
  s.cfg.locks.toList.any (fun e => e.concerns s.cfg.ownId ev && e.applies m d && !s.lockHolds Freshness.runs e)

/-- The running evaluation fails for a moving channel (R170). -/
def State.runningFails (s : State) (m : MotIx) (ev : LockEvent) : Bool :=
  (s.mot m).state.isMoving && (match (s.mot m).direction with | some d => s.lockFails m d ev | none => false)

/-- The work of an event that can change a subject: every channel in index order (R170). -/
def lockWork (ev : LockEvent) : List Act := allMots.map (fun m => .evalLocks m ev)

/-- Some used entry of the table names the own flag (R129: whether the Interlock Unit can act on its change). -/
def State.flagNamed (s : State) (i : Nat) : Bool :=
  s.cfg.locks.toList.any (fun e => e.concerns s.cfg.ownId (.ownFlag i) && decide (e.subject ≠ 0))

/-- Some used entry of the table names the own channel's posture. -/
def State.postureNamed (s : State) (m : MotIx) : Bool :=
  s.cfg.locks.toList.any (fun e => e.concerns s.cfg.ownId (.ownPosture m) && decide (e.subject ≠ 0))

/-- Some FRESH or LATE peer shows E-stop held (R24). -/
def State.peerHoldsEstop (s : State) : Bool :=
  allIds.any (fun n => (s.peer n).freshness.runs && (s.peer n).contents.bits.estopHeld)

end Sys2Proof.Machine
end

