-- ==== Sys2Proof/Machine/Claims.lean ====
section
/-! DEFINITION. The Claim Unit's two halves: the foreign claim list (R60..R64) and the own claim records (R66, R67,
R73). What a claim's end does to its channel stands in Motion.lean. -/

namespace Sys2Proof.Machine

/-! ## The foreign claim list -/

/-- An entry put at its place in expiry order, after every entry of equal expiry (R60, R61). -/
def insertClaim (e : ForeignClaim) : List ForeignClaim → List ForeignClaim
  | [] => [e]
  | x :: xs => if x.expiry ≤ e.expiry then x :: insertClaim e xs else e :: x :: xs

/-- The entry is named by the claimant and tag (R60). -/
def ForeignClaim.named (e : ForeignClaim) (n : NodeId) (tag : Nat) : Bool := e.claimant == n && e.tag == tag

/-- The entry of a claimant and tag. -/
def State.foreignEntry (s : State) (n : NodeId) (tag : Nat) : Option ForeignClaim :=
  s.foreign.find? (fun e => e.named n tag)

/-- The list without the entry of a claimant and tag. -/
def dropClaim (n : NodeId) (tag : Nat) (l : List ForeignClaim) : List ForeignClaim :=
  l.filter (fun e => !e.named n tag)

/-- An entry leaves the list, by withdrawal or expiry: saturation ends, and the Budget Unit recomputes (R62, R63, R64). -/
def removeClaim (n : NodeId) (tag : Nat) (s : State) : State :=
  match s.foreignEntry n tag with
  | none => s
  | some e => recompute e.segment { s with foreign := dropClaim n tag s.foreign, saturated := false }

/-- A nonzero CLAIM that can be stored: it replaces its entry or is inserted, and the segments whose sums changed are
recomputed (R61). -/
def storeClaim (e : ForeignClaim) (s : State) : State :=
  match s.foreignEntry e.claimant e.tag with
  | some old =>
    let t := recompute e.segment { s with foreign := insertClaim e (dropClaim e.claimant e.tag s.foreign) }
    if old.segment = e.segment then t else recompute old.segment t
  | none => recompute e.segment { s with foreign := insertClaim e s.foreign }

/-- A nonzero CLAIM can be stored: its entry is there, or there is room (R61). -/
def State.hasRoomFor (s : State) (n : NodeId) (tag : Nat) : Bool :=
  (s.foreignEntry n tag).isSome || decide (s.foreign.length < Config.foreignSize)

/-- The rank of one claim is better than another's: lower level, then lower id (R70). -/
def betterRank (level : Nat) (id : NodeId) (level' : Nat) (id' : NodeId) : Bool :=
  decide (level < level') || (decide (level = level') && decide (id < id'))

/-! ## Own claim records -/

/-- The CLAIM frame of a record, with its amount or with 0 for its withdrawal (R66, R73, R5). -/
def claimFrame (m : MotIx) (c : OwnClaim) (amount : Nat) : TxFrame :=
  newFrame c.level (.claim m c.segment amount c.hold)

/-- A claim is withdrawn: the reserve drops, the record returns to NONE, and an OPEN or HELD claim offers its zero
CLAIM (R73). A claim already NONE is not withdrawn. The settle timer of a claim that is no longer OPEN is stopped at 0
(log 27). -/
def withdraw (m : MotIx) : Op := fun s =>
  let c := (s.claim m)
  match c.state with
  | .none => (s, [])
  | .waiting =>
    (recompute c.segment (s.modClaim m (fun r => { r with state := .none, settle := .zero })), [])
  | .opened | .held =>
    (recompute c.segment (s.modClaim m (fun r =>
      { r with state := .none, settle := .zero, inFlight := r.inFlight + 1 })),
      [.offer (claimFrame m c 0)])

/-- The CLAIM is offered: the claim enters OPEN, its settle timer starts, and one more frame is in flight (R67). -/
def openClaim (m : MotIx) : Op := fun s =>
  (s.modClaim m (fun r => { r with state := .opened, settle := .running s.now, inFlight := r.inFlight + 1 }),
    [.offer (claimFrame m (s.claim m) (s.claim m).amount)])

/-- An own claim is created: the record is filled, its amount enters the reserve, and its CLAIM is offered, or held
back behind the frames of its tag still in flight (R66, R67). -/
def createClaim (m : MotIx) (level : Nat) (override : Bool) : Op := fun s =>
  let cfg := (s.motCfg m)
  let filled := recompute cfg.segment (s.modClaim m (fun r =>
    { r with state := .waiting, segment := cfg.segment, amount := cfg.claimAmount, hold := cfg.claimHold,
             level := level, override := override, settle := .zero, sendMoment := none }))
  if (s.claim m).inFlight = 0 then openClaim m filled else (filled, [])

/-- The moment a claim's hold runs out, once its CLAIM has been sent or dropped (R69). -/
def OwnClaim.holdEnd (c : OwnClaim) : Option Nat := c.sendMoment.map (fun t => t + ms (10 * c.hold))

/-- A HELD claim's hold runs out: it stops being live and returns to NONE (R69; log 27). -/
def endHold (m : MotIx) (s : State) : State :=
  recompute (s.claim m).segment (s.modClaim m (fun r => { r with state := .none, settle := .zero }))

end Sys2Proof.Machine
end

