-- ==== Sys2Proof/Machine/Motion.lean ====
section
/-! DEFINITION. The Motion Unit: states and outputs (R137, R143, R147..R149), the start check (R139, R140), speed, slow
band and target (R144..R146), position and referencing (R157, R158), posture (R161), trips (R165, R166), and what the
life of a claim does to its channel (R68, R70, R71, R74). -/

namespace Sys2Proof.Machine

/-! ## Answers (R120) -/

/-- An ANSWER is offered when the command wants one and its origin is not the own id (R120, R5). -/
def answerWork (origin : NodeId) (tag : Nat) (wanted : Bool) (o : Outcome) (s : State) : List Act :=
  if wanted && decide (origin ≠ s.cfg.ownId) then
    [.offer (newFrame Config.answerLevel (.answer origin tag o))]
  else []

/-- The outcome of a motion command is answered. -/
def answerMotion (c : MotionCmd) (o : Outcome) : Op := Op.emit (answerWork c.origin c.tag c.wanted o)

/-! ## Posture (R161) -/

/-- The posture is derived again; a change is handed to the Interlock Unit (R161). The publisher sees it at the end of the
piece of work (log 7). -/
def refreshPosture (m : MotIx) : Op := fun s =>
  if s.derivePosture m = (s.mot m).posture then (s, [])
  else (s.modMot m (fun c => { c with posture := s.derivePosture m }), lockWork (.ownPosture m))

/-! ## Outputs and states -/

/-- All three outputs of the channel off, the speed fade cleared, the applied speed 0 (R148, R165). -/
def MotionCh.cut (c : MotionCh) : MotionCh :=
  { c with outOn := false, inOn := false, speed := 0, speedWaiting := 0, speedActive := 0, speedFade := none }

/-- The channel becomes IDLE; its first pending entry is then taken (R118). -/
def becomeIdle (m : MotIx) : Op := Op.chain
  [ Op.set (fun s => s.modMot m (fun c => { c with state := .idle, holder := none, deadTimer := .zero })),
    refreshPosture m,
    Op.emit (fun _ => [.take m]) ]

/-- The command of a channel in CLAIMING ends: its claim is withdrawn where it still stands, and the channel becomes
IDLE (R74, R142, R150, R152). -/
def endClaiming (m : MotIx) : Op := Op.chain [withdraw m, becomeIdle m]

/-- The channel enters SETTLING: outputs off, holder cleared, dead time from 0, a claim still held withdrawn (R147,
R148, R167). -/
def enterSettling (m : MotIx) : Op := Op.chain
  [ Op.set (fun s => s.modMot m (fun c =>
      { c.cut with state := .settling, holder := none, deadTimer := .running s.now, stallTimer := .zero,
                   tripReason := none })),
    withdraw m, refreshPosture m ]

/-- The channel enters STOPPING: holder cleared, the direction output kept on, the speed fading to 0 over Ramp Down, a
HELD claim withdrawn (R147). -/
def enterStopping (m : MotIx) : Op := Op.chain
  [ Op.set (fun s => s.modMot m (fun c =>
      { c with state := .stopping, holder := none, stallTimer := .zero,
               speedFade := some (Fade.begin c.speed 0 (s.motCfg m).rampDown) })),
    withdraw m, refreshPosture m ]

/-! ## Direction, slow band and target (R138, R145, R146) -/

/-- The direction of a command from a position; none for a target equal to it (R138). -/
def MotionCmd.dirFrom (c : MotionCmd) (position : Int) : Option Dir :=
  match c.target with
  | some t =>
    if position < (t : Int) then some .outward else if (t : Int) < position then some .inward else none
  | none => some c.dir

/-- The channel is inside its slow band, by Table 9-5 (R145). -/
def State.inSlowBand (s : State) (m : MotIx) : Bool :=
  let c := (s.mot m)
  let cfg := (s.motCfg m)
  let target := c.holder.bind (fun h => h.cmd.target)
  c.referenced &&
    (match c.direction with
     | some .outward => decide ((target.getD cfg.travel : Int) - c.position ≤ (cfg.slowBand : Int))
     | some .inward => decide (c.position - (target.getD 0 : Int) ≤ (cfg.slowBand : Int))
     | none => false)

/-- The channel has reached its holder's target (R146). -/
def State.targetReached (s : State) (m : MotIx) : Bool :=
  match (s.mot m).holder.bind (fun h => h.cmd.target), (s.mot m).direction with
  | some t, some .outward => decide ((t : Int) ≤ (s.mot m).position)
  | some t, some .inward => decide ((s.mot m).position ≤ (t : Int))
  | _, _ => false

/-- The chosen speed (R138): Slow Speed or Full Speed. -/
def State.chosenSpeed (s : State) (m : MotIx) : Nat :=
  if (s.mot m).slow then (s.motCfg m).slowSpeed else (s.motCfg m).fullSpeed

/-- A speed fade begins from the present applied speed (R144). -/
def beginSpeedFade (m : MotIx) (target time : Nat) (s : State) : State :=
  s.modMot m (fun c => { c with speedFade := some (Fade.begin c.speed target time) })

/-- The channel is in STARTING or RUNNING. -/
def MotionState.isDriven : MotionState → Bool
  | .starting | .running => true
  | .idle | .claiming | .stopping | .settling | .tripped => false

/-- A channel at Full Speed enters its slow band: the chosen speed becomes Slow Speed, and the speed fades to it over Ramp
Down, whatever it stands at (R145). -/
def enterSlowBand (m : MotIx) (s : State) : State :=
  beginSpeedFade m (s.motCfg m).slowSpeed (s.motCfg m).rampDown (s.modMot m (fun c => { c with slow := true }))

/-- The slow-band test of a channel that moves at Full Speed (R145). -/
def slowBandTest (m : MotIx) : Op :=
  Op.set (fun s => if !(s.mot m).slow && s.inSlowBand m then enterSlowBand m s else s)

/-- The target test (R146). -/
def targetTest (m : MotIx) : Op := Op.cond (fun s => s.targetReached m) (enterStopping m) Op.skip

/-- The tests made at each change of position in STARTING or RUNNING (R157). -/
def positionTests (m : MotIx) : Op :=
  Op.cond (fun s => (s.mot m).state.isDriven) (Op.chain [slowBandTest m, targetTest m]) Op.skip

/-- The channel is tested for stall (R162). -/
def State.stallTested (s : State) (m : MotIx) : Bool := s.hasPulse m && decide (0 < (s.motCfg m).stallTime)

/-- The channel enters STARTING: its direction output on, the speed fading from 0 to the chosen speed over Ramp Up, the
stall timer from 0 (R143, R145). -/
def enterStarting (m : MotIx) : Op := Op.chain
  [ Op.set (fun s => s.modMot m (fun c =>
      { c with state := .starting, outOn := c.direction == some .outward, inOn := c.direction == some .inward,
               slow := c.holder.any (fun h => h.cmd.speed == .slow) || s.inSlowBand m,
               stallTimer := if s.stallTested m then .running s.now else .zero })),
    Op.set (fun s => beginSpeedFade m (s.chosenSpeed m) (s.motCfg m).rampUp s),
    refreshPosture m ]

/-- The channel passes from STARTING to RUNNING (R143). -/
def enterRunning (m : MotIx) : Op := Op.set (fun s =>
  if (s.mot m).state = .starting then s.modMot m (fun c => { c with state := .running }) else s)

/-! ## Trips (R165, R166) -/

/-- The reasons that give sibling trips (R166). -/
def TripReason.givesSiblings : TripReason → Bool
  | .overcurrent | .stall | .sensor | .guard | .interlock => true
  | .stop | .sibling | .clash => false

/-- A follow-on is cleared and answered CANCELLED (R165, R172). -/
def dropFollowOn (m : MotIx) : Op := fun s =>
  match (s.mot m).followOn with
  | some h => Op.chain
      [Op.set (fun t => t.modMot m (fun c => { c with followOn := none })), answerMotion h.cmd .cancelled] s
  | none => (s, [])

/-- The other channels that a sibling trip would reach (R166). -/
def State.siblingsOf (s : State) (m : MotIx) : List MotIx :=
  allMots.filter (fun k => k ≠ m && (s.motCfg k).configured && (s.motCfg k).siblingTrip && (s.mot k).state.isMoving)

/-- The sibling trips that a trip gives, where they would reach some channel (R166). -/
def State.siblingWork (s : State) (m : MotIx) (r : TripReason) : List Act :=
  if r.givesSiblings && !(s.siblingsOf m).isEmpty then [.siblings] else []

/-- The tripped channel's posture is handed on and its sibling trips are given; where both can reach a sibling, either
may be taken first (R161, R165, R166; log 5). -/
def handOnTrip (m : MotIx) (r : TripReason) : Op := fun s =>
  let siblings := s.siblingWork m r
  let locks := (refreshPosture m s).2
  let posted := (refreshPosture m s).1
  if siblings.isEmpty || !s.postureNamed m then (posted, locks ++ siblings)
  else Op.eitherFirst (fun _ => locks) (fun _ => siblings) posted

/-- A trip of a channel that is not TRIPPED (R165). -/
def trip (m : MotIx) (r : TripReason) : Op :=
  Op.cond (fun s => (s.mot m).state == .tripped) Op.skip <| Op.chain
    [ Op.set (fun s => s.modMot m (fun c =>
        { c.cut with state := .tripped, holder := none, stallTimer := .zero, deadTimer := c.deadTimer.halt s.now,
                     tripReason := some r })),
      withdraw m, dropFollowOn m, handOnTrip m r ]

/-- A trip of a moving channel. -/
def tripIfMoving (m : MotIx) (r : TripReason) : Op :=
  Op.cond (fun s => (s.mot m).state.isMoving) (trip m r) Op.skip

/-- A sibling trip reaches a channel whose enable is set and which is moving (R166). -/
def siblingTrip (m : MotIx) : Op :=
  Op.cond (fun s => (s.motCfg m).configured && (s.motCfg m).siblingTrip) (tripIfMoving m .sibling) Op.skip

/-- Sibling trips are given in channel index order; the channel that tripped first is TRIPPED, and none reaches it (R166). -/
def siblingTrips : Op := Op.each siblingTrip allMots

/-- The running evaluation of a channel's interlock entries (R170). -/
def evaluateLocks (m : MotIx) (e : LockEvent) : Op :=
  Op.cond (fun s => s.runningFails m e) (trip m .interlock) Op.skip

/-! ## Position and referencing (R157, R158, R162) -/

/-- The count one step in a direction, saturating (R157). -/
def countPulse (d : Option Dir) (position : Int) : Int :=
  match d with
  | some .outward => min 8388607 (position + 1)
  | some .inward => max (-8388608) (position - 1)
  | none => position

/-- A pulse of the channel: counted in the kept direction, the stall timer restarted, and the tests that follow a
counted pulse (R157, R162). -/
def takePulse (m : MotIx) : Op := Op.chain
  [ Op.set (fun s => s.modMot m (fun c =>
      { c with position := if s.hasPulse m then countPulse c.direction c.position else c.position,
               stallTimer := if c.state.isDriven && s.stallTested m then .running s.now else c.stallTimer })),
    Op.cond (fun s => (s.mot m).direction.isSome) (positionTests m) Op.skip,
    refreshPosture m ]

/-- An end contact going active sets the position and the referenced flag of a channel with a pulse input (R158). -/
def reference (m : MotIx) (which : Dir) (s : State) : State :=
  if s.hasPulse m then
    s.modMot m (fun c =>
      { c with position := (match which with | .outward => ((s.motCfg m).travel : Int) | .inward => 0),
               referenced := true })
  else s

/-- The other direction. -/
def Dir.other : Dir → Dir
  | .outward => .inward
  | .inward => .outward

/-- What an end contact going active does to an energized channel: a SENSOR trip where it contradicts the motion, the
end-contact stop where it ends it, otherwise the position's tests (R148, R163). -/
def contactStops (m : MotIx) (which : Dir) : Op := fun s =>
  if !(s.mot m).state.isEnergized then (s, [])
  else if s.roleActive (endRole m which.other) then trip m .sensor s
  else if (s.mot m).direction = some which then enterSettling m s
  else if which = .inward then trip m .sensor s
  else positionTests m s

/-- An accepted change of an end contact (R158, R148, R163, R161). -/
def endContact (m : MotIx) (which : Dir) (active : Bool) : Op :=
  if active then Op.chain [Op.set (reference m which), contactStops m which, refreshPosture m]
  else refreshPosture m

/-! ## The start check (R139, R140) -/

/-- What a start check finds. -/
inductive Check where
  | refused (r : Reason)
  | completes
  | passes (d : Dir)
  deriving DecidableEq, Repr

/-- The hold of a HOLD-TO-RUN command is absent: the local input is inactive, or the deadline given has passed (R139,
test 7; log 21). -/
def State.holdAbsent (s : State) (m : MotIx) (c : MotionCmd) (deadline : Option Nat) : Bool :=
  c.mode == .holdToRun &&
    (if (s.motCfg m).localHold then !s.roleActive (.hold m) else deadline.any (fun t => decide (t ≤ s.now)))

/-- Tests 3 to 9 of R139, in their order; the answer to test 9's question is given. -/
def State.checkMotion (s : State) (m : MotIx) (c : MotionCmd) (deadline : Option Nat) (budget : Bool) : Check :=
  if s.bothContacts m then .refused .sensor
  else if c.target.isSome && !(s.mot m).referenced then .refused .unreferenced
  else if c.verb = .home && !s.cfg.hasRole (.stowEnd m) then .refused .badArgument
  else
    match c.dirFrom (s.mot m).position with
    | none => .completes
    | some d =>
      if s.roleActive (endRole m d) then .completes
      else if s.holdAbsent m c deadline then .refused .interlock
      else if !s.locksAllowStart m d then .refused .interlock
      else if !s.cfg.isOverride c.origin c.level && !budget then .refused .budget
      else .passes d

/-- The start check (R139). -/
def State.startCheck (s : State) (m : MotIx) (c : MotionCmd) (deadline : Option Nat) : Check :=
  if s.stopLatch then .refused .stopped
  else if s.mode = .listen then .refused .notReady
  else s.checkMotion m c deadline (s.admits (s.motCfg m).segment (s.motCfg m).claimAmount)

/-- The hold deadline of a HOLD-TO-RUN command on a LINK channel; none otherwise (R141, R150, R151). -/
def State.linkDeadline (s : State) (m : MotIx) (c : MotionCmd) (deadline : Nat) : Option Nat :=
  if c.mode = .holdToRun ∧ (s.motCfg m).localHold = false then some deadline else none

/-- 350 ms from now, for a HOLD-TO-RUN command on a LINK channel (R141, R150). -/
def State.arrivalDeadline (s : State) (m : MotIx) (c : MotionCmd) : Option Nat :=
  s.linkDeadline m c (s.now + ms Config.holdMs)

/-- A command becomes the holder in CLAIMING (R141), before its claim is created. -/
def setHolder (m : MotIx) (c : MotionCmd) (d : Dir) (deadline : Option Nat) (s : State) : State :=
  s.modMot m (fun r =>
    { r with state := .claiming, direction := some d, holder := some ⟨c, deadline⟩, deadTimer := .zero })

/-- A command passes its start check: it becomes the holder, the channel enters CLAIMING with a new claim, and the
command is answered TAKEN (R141, R66). The CLAIM and the ANSWER are offered before the Interlock Unit evaluates the new
posture (R161), which is the model's order (log 6). -/
def enterClaiming (m : MotIx) (c : MotionCmd) (d : Dir) (deadline : Option Nat) : Op := Op.chain
  [ Op.set (setHolder m c d deadline),
    fun s => createClaim m c.level (s.cfg.isOverride c.origin c.level) s,
    answerMotion c .taken,
    refreshPosture m ]

/-- A command is put to the start check and what it finds is done; `checked` is the deadline test 7 reads, `deadline`
the holder's first one, and `refused` and `completed` say what follows where the channel does not move (R114, R140,
R149). -/
def takeCommand (m : MotIx) (c : MotionCmd) (checked deadline : Option Nat) (refused completed : Op) : Op := fun s =>
  match s.startCheck m c checked with
  | .refused r => Op.chain [answerMotion c (.refused r), refused] s
  | .completes => Op.chain [answerMotion c .taken, completed] s
  | .passes d => enterClaiming m c d deadline s

/-- The channel takes its next pending entry. -/
def thenTake (m : MotIx) : Op := Op.emit (fun _ => [.take m])

/-- The first pending entry for an IDLE channel is removed and taken (R118, R114). -/
def takePending (m : MotIx) : Op := fun s =>
  if (s.mot m).state ≠ .idle then (s, [])
  else
    match s.motionQueue.find? (fun e => e.channel == m) with
    | none => (s, [])
    | some e =>
      takeCommand m e.cmd none (s.linkDeadline m e.cmd e.deadline) (thenTake m) (thenTake m)
        { s with motionQueue := s.motionQueue.eraseP (fun x => x.channel == m) }

/-! ## What a claim's life does to its channel -/

/-- An own claim yields: it is withdrawn, and its channel returns to IDLE (R71, R74). -/
def yieldClaim (m : MotIx) : Op :=
  Op.chain [withdraw m, Op.cond (fun s => (s.mot m).state == .claiming) (becomeIdle m) Op.skip]

/-- The report of the CLAIM that created a claim (R68). -/
def creationReport (sent : Bool) (m : MotIx) : Op := fun s =>
  let c := (s.claim m)
  let stamped := s.modClaim m (fun r => { r with sendMoment := some s.now })
  if c.sendMoment.isSome then (s, [])
  else
    match c.state with
    | .opened => if !sent && !c.override then yieldClaim m s else (stamped, [])
    | .held => (stamped, [])
    | .none | .waiting => (s, [])

/-- A WAITING claim with no frame in flight is offered (R67). -/
def releaseWaiting (m : MotIx) : Op :=
  Op.cond (fun s => (s.claim m).state == .waiting && (s.claim m).inFlight == 0) (openClaim m) Op.skip

/-- A sent or dropped report reaches the block that offered the frame: only CLAIM frames act on it (R15, R67, R68). -/
def takeReport (sent : Bool) (f : TxFrame) : Op :=
  match f.body with
  | .claim m _ amount _ => Op.chain
      [ Op.set (fun s => s.modClaim m (fun r => { r with inFlight := r.inFlight - 1 })),
        if amount ≠ 0 then creationReport sent m else Op.skip,
        releaseWaiting m ]
  | .stop _ | .command _ | .answer _ _ _ | .status _ _ => Op.skip

/-- An own claim meets an arrived claim: in deficit, and outranked, it yields (R70). -/
def contendClaim (m : MotIx) (g : SegIx) (level : Nat) (claimant : NodeId) : Op :=
  Op.cond (fun s =>
      ((s.claim m).state == .waiting || (s.claim m).state == .opened) && !(s.claim m).override &&
        (s.claim m).segment == g && s.deficit g && betterRank level claimant (s.claim m).level s.cfg.ownId)
    (yieldClaim m) Op.skip

/-- Hold loss (R150). -/
def loseHold (m : MotIx) : Op := fun s =>
  match (s.mot m).state with
  | .claiming => endClaiming m s
  | .starting | .running => enterStopping m s
  | .idle | .stopping | .settling | .tripped => (s, [])

/-- A HALT taken on the channel (R152, R167). -/
def haltMotion (m : MotIx) : Op := fun s =>
  match (s.mot m).state with
  | .claiming => endClaiming m s
  | .starting | .running => enterStopping m s
  | .tripped => enterSettling m s
  | .idle | .stopping | .settling => (s, [])

/-- The checks at a passed settle end: an interlock entry not holding with a FRESH subject, both end contacts active, or
arrival stop the channel (R142). -/
def State.settleChecksStop (s : State) (m : MotIx) : Bool :=
  match (s.mot m).direction with
  | some d =>
    !s.locksAllowStart m d || s.bothContacts m || s.roleActive (endRole m d) || s.targetReached m
  | none => true

/-- A claim that passed its settle end is HELD; the channel is checked and enters STARTING, or becomes IDLE with the
claim withdrawn; a hold already spent takes it on to RUNNING (R72, R142, R143, R69). -/
def passSettle (m : MotIx) : Op := Op.chain
  [ Op.set (fun s => s.modClaim m (fun r => { r with state := .held, settle := .zero })),
    Op.cond (fun s => s.settleChecksStop m) (endClaiming m) <| Op.chain
      [ enterStarting m,
        Op.cond (fun s => (s.claim m).holdEnd.any (fun t => decide (t ≤ s.now)))
          (Op.chain [Op.set (endHold m), enterRunning m]) Op.skip ] ]

/-- The settle end (R72): an override claim passes; any other is put to the margin test, and fails for BUDGET. -/
def settleClaim (m : MotIx) : Op :=
  Op.cond (fun s => (s.claim m).override || s.marginTest (s.claim m).segment) (passSettle m) (yieldClaim m)

/-! ## Speed fades (R144, R147) -/

/-- The channel's speed fade brought to a step count: the applied speed is written, and at the last step the fade ends;
a STOPPING channel then enters SETTLING (R81, R144, R147). -/
def stepSpeedTo (m : MotIx) (k : Fade → Nat) : Op := fun s =>
  match (s.mot m).speedFade with
  | none => (s, [])
  | some f =>
    let v := f.valueAt (k f)
    let ended := decide (f.steps ≤ k f)
    let t := s.modMot m (fun c =>
      { c with speed := v, speedWaiting := v, speedFade := if ended then none else some { f with taken := k f } })
    if ended && (s.mot m).state == .stopping then enterSettling m t else (t, [])

/-- One fade tick of a speed fade (R144). -/
def stepSpeed (m : MotIx) : Op := stepSpeedTo m (fun f => f.taken + 1)

/-! ## The stop latch (R172) -/

/-- The latch clears the follow-on of a SETTLING channel (R172, step 2). -/
def latchFollowOn (m : MotIx) : Op :=
  Op.cond (fun s => (s.mot m).state == .settling) (dropFollowOn m) Op.skip

/-- Every pending entry is removed and answered, in queue order (R119). -/
def emptyQueue (o : Outcome) : Op := fun s =>
  Op.each (fun e => answerMotion e.cmd o) s.motionQueue { s with motionQueue := [] }

/-- The stop latch goes from clear to set: moving channels trip STOP, follow-ons of SETTLING channels are cancelled, and
the pending queue is purged, each in its order; a setting event that finds it set changes nothing (R172). -/
def setLatch : Op := Op.cond (fun s => s.stopLatch) Op.skip <| Op.chain
  [ Op.set (fun s => { s with stopLatch := true }),
    Op.each (fun m => tripIfMoving m .stop) allMots,
    Op.each latchFollowOn allMots,
    emptyQueue (.refused .stopped) ]

end Sys2Proof.Machine
end

