-- ==== Sys2Proof/Machine/Command.lean ====
section
/-! DEFINITION. The Command Unit: the verbs as they act on a command taken up (R107..R119), preemption (R153, R154), the
pending queue (R115..R117), the warm restart (R179) and the key bindings (R122, R123). -/

namespace Sys2Proof.Machine

/-- The outcome of a command is answered (R120). -/
def answerCmd (c : Cmd) (o : Outcome) : Op := Op.emit (answerWork c.origin c.tag c.wanted o)

/-- A command refused BAD-ARGUMENT (R107). -/
def badArgument (c : Cmd) : Op := answerCmd c (.refused .badArgument)

/-! ## Dimmer verbs (R83..R87) -/

/-- A DIMMER verb with this argument count on a configured channel: acted on and answered TAKEN; otherwise refused
BAD-ARGUMENT (R83, R107). -/
def dimmerVerb (v : Verb) (act : DimIx → State → State) (c : Cmd) : Op := fun s =>
  match s.dimmerOf c with
  | some d =>
    if c.args.length = v.argCount then Op.chain [Op.set (act d), answerCmd c .taken] s else badArgument c s
  | none => badArgument c s

/-- SET (R84, R87). -/
def setCommand (c : Cmd) : Op :=
  dimmerVerb .set (fun d s => setLevel d (le16 c.args 0) (le16 c.args 2) s) c

/-- NUDGE (R85, R87). -/
def nudgeCommand (c : Cmd) : Op :=
  dimmerVerb .nudge (fun d s => setLevel d (s.nudged d (signed16 (le16 c.args 0))) (le16 c.args 2) s) c

/-- FREEZE (R86). -/
def freezeCommand (c : Cmd) : Op := dimmerVerb .freeze freezeDimmer c

/-! ## The pending queue (R115..R117) -/

/-- The entry has this origin and tag. -/
def PendEntry.named (e : PendEntry) (origin : NodeId) (tag : Nat) : Bool :=
  e.cmd.origin == origin && e.cmd.tag == tag

/-- The pending entry of an origin and tag. -/
def State.pendingEntry (s : State) (origin : NodeId) (tag : Nat) : Option PendEntry :=
  s.motionQueue.find? (fun e => e.named origin tag)

/-- An entry put at its place: after every entry of the same level (R115). -/
def insertPending (e : PendEntry) : List PendEntry → List PendEntry
  | [] => [e]
  | x :: xs => if x.cmd.level ≤ e.cmd.level then x :: insertPending e xs else e :: x :: xs

/-- The pending entry of an origin and tag is removed and answered, if there is one. -/
def removePending (origin : NodeId) (tag : Nat) (o : Outcome) : Op := fun s =>
  match s.pendingEntry origin tag with
  | some e => answerMotion e.cmd o { s with motionQueue := s.motionQueue.eraseP (fun x => x.named origin tag) }
  | none => (s, [])

/-- The time a pending entry has, by its hold mode, in ms (R117). -/
def pendingMs : HoldMode → Nat
  | .latched => Config.latchedMs
  | .holdToRun => Config.holdMs

/-- A command enters the pending queue at its place and is answered QUEUED (R115, R117). -/
def enterQueue (m : MotIx) (c : MotionCmd) : Op := Op.chain
  [ Op.set (fun s => { s with motionQueue := insertPending ⟨c, m, s.now + ms (pendingMs c.mode)⟩ s.motionQueue }),
    answerMotion c .queued ]

/-- A command is sent to the pending queue, which may be full (R115, R116). -/
def queueCommand (m : MotIx) (c : MotionCmd) : Op := fun s =>
  if s.motionQueue.length < Config.pendingSize then enterQueue m c s
  else
    match s.motionQueue.getLast? with
    | some worst =>
      if c.level < worst.cmd.level then
        Op.chain
          [ Op.set (fun t => { t with motionQueue := t.motionQueue.dropLast }),
            answerMotion worst.cmd .displaced, enterQueue m c ] s
      else answerMotion c (.refused .full) s
    | none => answerMotion c (.refused .full) s

/-! ## Preemption (R153, R154) -/

/-- The hold level of a channel: its holder's level, or 32 (chapter 7, 7.3). -/
def State.holdLevel (s : State) (m : MotIx) : Nat :=
  match (s.mot m).holder with
  | some h => h.cmd.level
  | none => 32

/-- The speed that the channel's speed output stands at or fades to. -/
def MotionCh.speedGoal (c : MotionCh) : Nat :=
  match c.speedFade with
  | some f => f.target
  | none => c.speed

/-- The holder's speed select is SLOW. -/
def State.selectsSlow (s : State) (m : MotIx) : Bool := (s.mot m).holder.any (fun h => h.cmd.speed == .slow)

/-- The slow band and the chosen speed tested at once for a new holder. A channel at Full Speed whose new holder selects FULL
and finds it inside its band enters the band (R145); otherwise a chosen speed that differs begins a fade, up or down by its
ramp (R153, R144; log 23). -/
def retarget (m : MotIx) (s : State) : State :=
  let t := s.modMot m (fun c => { c with slow := s.selectsSlow m || s.inSlowBand m })
  if !(s.mot m).slow && !s.selectsSlow m && s.inSlowBand m then enterSlowBand m s
  else if t.chosenSpeed m = (t.mot m).speedGoal then t
  else beginSpeedFade m (t.chosenSpeed m)
    (if (t.mot m).speed < t.chosenSpeed m then (t.motCfg m).rampUp else (t.motCfg m).rampDown) t

/-- A same-direction preemption that passes its tests replaces the holder in place (R153, R75). -/
def replaceHolder (m : MotIx) (c : MotionCmd) : Op := Op.chain
  [ Op.set (fun s => s.modMot m (fun r => { r with holder := some ⟨c, s.arrivalDeadline m c⟩ })),
    answerMotion c .taken,
    Op.set (fun s =>
      if (s.mot m).state = .claiming ∧ s.cfg.isOverride c.origin c.level then
        s.modClaim m (fun r => { r with override := true })
      else s),
    Op.cond (fun s => (s.mot m).state.isDriven) (Op.chain [Op.set (retarget m), targetTest m]) Op.skip ]

/-- A same-direction preemption (R153). -/
def samePreemption (m : MotIx) (c : MotionCmd) : Op := fun s =>
  if c.verb = .home && !s.cfg.hasRole (.stowEnd m) then answerMotion c (.refused .badArgument) s
  else if s.holdAbsent m c none then answerMotion c (.refused .interlock) s
  else replaceHolder m c s

/-- An opposite preemption in CLAIMING (R154). -/
def oppositeClaiming (m : MotIx) (c : MotionCmd) : Op := fun s =>
  match s.checkMotion m c none (s.marginTest (s.motCfg m).segment) with
  | .refused r => answerMotion c (.refused r) s
  | .completes => Op.chain [withdraw m, answerMotion c .taken, becomeIdle m] s
  | .passes d => Op.chain [withdraw m, enterClaiming m c d (s.arrivalDeadline m c)] s

/-- An opposite preemption in STARTING or RUNNING: the channel enters STOPPING and the command becomes its follow-on
(R154). -/
def oppositeDriven (m : MotIx) (c : MotionCmd) : Op := Op.chain
  [ Op.set (fun s => s.modMot m (fun r => { r with followOn := some ⟨c, s.arrivalDeadline m c⟩ })),
    answerMotion c .queued,
    enterStopping m ]

/-- A preempting MOVE or HOME (R138, R153, R154). -/
def preempt (m : MotIx) (c : MotionCmd) : Op := fun s =>
  if c.target.isSome && !(s.mot m).referenced then answerMotion c (.refused .unreferenced) s
  else
    match c.dirFrom (s.mot m).position with
    | none => samePreemption m c s
    | some d =>
      if (s.mot m).direction = some d then samePreemption m c s
      else if (s.mot m).state = .claiming then oppositeClaiming m c s
      else oppositeDriven m c s

/-! ## Motion verbs (R111..R114) -/

/-- A MOVE or HOME meets Table 7-2 for its channel's state (R111). -/
def motionByState (m : MotIx) (c : MotionCmd) : Op := fun s =>
  match (s.mot m).state with
  | .idle => takeCommand m c none (s.arrivalDeadline m c) Op.skip (thenTake m) s
  | .claiming | .starting | .running =>
    if c.level < s.holdLevel m then preempt m c s else queueCommand m c s
  | .stopping | .settling => queueCommand m c s
  | .tripped => answerMotion c (.refused .tripped) s

/-- A MOVE or HOME that passes R107 (R111). -/
def motionCommand (m : MotIx) (c : MotionCmd) : Op := fun s =>
  if s.stopLatch then answerMotion c (.refused .stopped) s
  else if s.mode = .listen then answerMotion c (.refused .notReady) s
  else Op.chain [removePending c.origin c.tag .displaced, motionByState m c] s

/-- A MOTION verb with its argument count on a configured channel, or BAD-ARGUMENT (R107). -/
def motionVerb (v : Verb) (act : MotIx → Op) (c : Cmd) : Op := fun s =>
  match s.motionOf c with
  | some m => if c.args.length = v.argCount then act m s else badArgument c s
  | none => badArgument c s

/-- MOVE (R111). -/
def moveCommand (c : Cmd) : Op :=
  motionVerb .move (fun m s => motionCommand m (readMove c (s.motCfg m).travel) s) c

/-- HOME (R138, R111). -/
def homeCommand (c : Cmd) : Op := motionVerb .home (fun m => motionCommand m (readHome c)) c

/-- A HALT on its channel: it takes back a pending entry with its origin, tag and channel, or meets Table 7-2 (R112). -/
def haltChannel (c : Cmd) (m : MotIx) : Op := fun s =>
  match s.motionQueue.find? (fun e => e.named c.origin c.tag && e.channel == m) with
  | some e =>
    Op.chain
      [ Op.set (fun t => { t with motionQueue := t.motionQueue.eraseP (fun x => x.named c.origin c.tag && x.channel == m) }),
        answerMotion e.cmd .cancelled, answerCmd c .taken ] s
  | none =>
    match (s.mot m).state with
    | .claiming | .starting | .running =>
      if (s.mot m).holder.any (fun h => h.cmd.origin == c.origin) || decide (c.level ≤ s.holdLevel m) then
        Op.chain [answerCmd c .taken, haltMotion m] s
      else answerCmd c (.refused .outranked) s
    | .idle | .stopping | .settling | .tripped => Op.chain [answerCmd c .taken, haltMotion m] s

/-- HALT (R112). -/
def haltCommand (c : Cmd) : Op := motionVerb .halt (haltChannel c) c

/-- A holder or follow-on record of this origin and tag refreshed (R113, R150). -/
def refreshHolder (s : State) (m : MotIx) (origin : NodeId) (tag : Nat) (h : Holder) : Holder :=
  if h.cmd.origin = origin ∧ h.cmd.tag = tag ∧ h.cmd.mode = .holdToRun ∧ (s.motCfg m).localHold = false then
    { h with deadline := some (s.now + ms Config.holdMs) }
  else h

/-- The holder and the follow-on of a channel refreshed by a HOLD of this origin and tag (R113, R150). -/
def refreshChannel (origin : NodeId) (tag : Nat) (m : MotIx) (s : State) : State :=
  s.modMot m (fun r =>
    { r with holder := r.holder.map (refreshHolder s m origin tag),
             followOn := r.followOn.map (refreshHolder s m origin tag) })

/-- A pending entry refreshed by a HOLD of this origin and tag; a LATCHED entry keeps its deadline (R117). -/
def refreshEntry (origin : NodeId) (tag now : Nat) (e : PendEntry) : PendEntry :=
  if e.named origin tag && e.cmd.mode == .holdToRun then { e with deadline := now + ms Config.holdMs } else e

/-- Every command the node holds with this origin and tag is refreshed (R113). -/
def refreshHeld (origin : NodeId) (tag : Nat) (s : State) : State :=
  let held := foldState (refreshChannel origin tag) allMots s
  { held with motionQueue := held.motionQueue.map (refreshEntry origin tag s.now) }

/-- HOLD; one with arguments is ignored, and none is answered (R113, R107). -/
def holdCommand (c : Cmd) : Op := Op.set (fun s =>
  if c.args.length = Verb.hold.argCount then refreshHeld c.origin c.tag s else s)

/-! ## Node verbs (R108..R110) -/

/-- A soft flag takes a value; a change is handed to the Interlock Unit (R108). -/
def setSoftFlag (i : Fin 4) (v : Bool) : Op := fun s =>
  if s.softFlags[i] = v then (s, [])
  else ({ s with softFlags := s.softFlags.set i v }, lockWork (.ownFlag (16 + i.val)))

/-- FLAG (R108). -/
def flagCommand (c : Cmd) : Op := fun s =>
  if h : c.args.length = Verb.flag.argCount ∧ 16 ≤ byteAt c.args 0 ∧ byteAt c.args 0 - 16 < 4 then
    Op.chain [answerCmd c .taken, setSoftFlag ⟨byteAt c.args 0 - 16, h.2.2⟩ (decide (byteAt c.args 1 ≠ 0))] s
  else badArgument c s

/-- The follow-on of a channel with this origin and tag is removed and answered CANCELLED (R109). -/
def cancelMatching (origin : NodeId) (tag : Nat) (m : MotIx) : Op := fun s =>
  if (s.mot m).followOn.any (fun h => h.cmd.origin == origin && h.cmd.tag == tag) then dropFollowOn m s else (s, [])

/-- CANCEL (R109). -/
def cancelCommand (c : Cmd) : Op :=
  if c.args.length = Verb.cancel.argCount then
    Op.chain
      [ answerCmd c .taken,
        removePending c.origin (bitField (byteAt c.args 0) 0 4) .cancelled,
        Op.each (cancelMatching c.origin (bitField (byteAt c.args 0) 0 4)) allMots ]
  else badArgument c

/-- The warm restart of one motion channel: not IDLE, TRIPPED included, to SETTLING with its dead time from 0 (R155). -/
def restartMotion (m : MotIx) : Op :=
  Op.cond (fun s => (s.motCfg m).configured && (s.mot m).state != .idle) (enterSettling m) Op.skip

/-- The warm restart of one dimmer channel: its fade frozen, with the cap upkeep, and its slot emptied (R92). -/
def restartDimmer (d : DimIx) (s : State) : State :=
  if (s.dimCfg d).configured then emptySlot d (freezeDimmer d s) else s

/-- A warm restart (R179, Table 12-3): the queue's CANCELLED answers, then those of the follow-ons, then the channels,
the dimmers, the scenes, the soft flags and the bindings. -/
def warmRestart : Op := Op.chain
  [ emptyQueue .cancelled,
    Op.each dropFollowOn allMots,
    Op.each withdraw allMots,
    Op.each restartMotion allMots,
    Op.set (foldState restartDimmer allDims),
    Op.set (fun s => { s with scenes := [], partialCue := false, presses := Vector.replicate 8 ⟨false, none⟩ }),
    Op.each (fun i => setSoftFlag i false) (List.finRange 4) ]

/-- RESTART (R110). -/
def restartCommand (c : Cmd) : Op := fun s =>
  if c.args.length ≠ Verb.restart.argCount then badArgument c s
  else if !s.cfg.isSafety c.origin || decide (15 < c.level) then answerCmd c (.refused .notPermitted) s
  else if s.mode = .listen then answerCmd c (.refused .notReady) s
  else Op.chain [answerCmd c .taken, warmRestart] s

/-- A command taken up is routed by its verb; one that Table 13-3 lacks is refused BAD-ARGUMENT (R107). -/
def runCommand (c : Cmd) : Op :=
  match verbOf c.kind c.verb with
  | some .set => setCommand c
  | some .nudge => nudgeCommand c
  | some .freeze => freezeCommand c
  | some .move => moveCommand c
  | some .home => homeCommand c
  | some .hold => holdCommand c
  | some .halt => haltCommand c
  | some .flag => flagCommand c
  | some .cancel => cancelCommand c
  | some .restart => restartCommand c
  | none => badArgument c

/-- A key binding's own-node command is taken up, in LISTEN and READY only (R106). -/
def takeUp (c : Cmd) : Op := Op.cond State.active (runCommand c) Op.skip

/-! ## Key bindings (R122, R123) -/

/-- Binding b uses tag 8 + b (R122). -/
def bindTag (b : BindIx) : Nat := 8 + b.val

/-- The binding repeats HOLD: a MOVE or HOME in mode HOLD-TO-RUN (R123). -/
def Binding.repeats (x : Binding) : Bool :=
  (verbOf x.kind x.verb == some .move || verbOf x.kind x.verb == some .home) && x.mode == .holdToRun

/-- Argument byte 0 with bit 1 taken from the binding's mode, the other bits that Table 13-3 names for the verb as stored,
and its unnamed bits 0 (R181, R180). -/
def putMode (named : Byte) (mode : HoldMode) : List Byte → List Byte
  | [] => []
  | b :: rest => ((b &&& named) ||| (if mode = .holdToRun then 0x02#8 else 0#8)) :: rest

/-- The argument bytes a binding sends: as many as Table 13-3 gives for its verb, none for a verb it lacks (log 19). For MOVE
and HOME the mode bit is the binding's, and of byte 0's other bits MOVE names 0, 2 and 3, and HOME none; every other byte
is sent as stored, the unnamed bits of a CANCEL's tag byte too (R181, R180, Table 13-3; log 36). -/
def Binding.sentArgs (x : Binding) : List Byte :=
  match verbOf x.kind x.verb with
  | some .move => putMode 0x0D#8 x.mode (x.args.take Verb.move.argCount)
  | some .home => putMode 0#8 x.mode (x.args.take Verb.home.argCount)
  | some v => x.args.take v.argCount
  | none => []

/-- A binding's command: a COMMAND frame when its target is another node, taken up locally when it is the own one
(R122, R106). -/
def bindWork (b : BindIx) (verb : Nat) (wanted : Bool) (args : List Byte) (s : State) : List Act :=
  let x := (s.binding b)
  if x.target = s.cfg.ownId then
    [.command { origin := s.cfg.ownId, tag := bindTag b, level := s.cfg.adjust s.cfg.ownId x.level, wanted := wanted,
                kind := x.kind, index := x.index, verb := verb, args := args }]
  else
    [.offer (newFrame x.level (.command (commandPayload x.target (bindTag b) wanted x.index x.kind verb args)))]

/-- The binding is on this input and is used (R122, R176). -/
def State.boundTo (s : State) (i : InIx) (b : BindIx) : Bool :=
  (s.binding b).input == i && decide ((s.binding b).target ≠ 0)

/-- A binding fires (R122, R123). -/
def fireBinding (i : InIx) (b : BindIx) : Op :=
  Op.cond (fun s => s.boundTo i b) (Op.chain
    [ Op.set (fun s => s.modPress b (fun _ =>
        ⟨true, if (s.binding b).repeats then some (s.now + ms Config.repeatMs) else none⟩)),
      Op.emit (fun s => bindWork b (s.binding b).verb (s.binding b).wanted (s.binding b).sentArgs s) ]) Op.skip

/-- A press ends: a pressed HOLD-TO-RUN binding sends its HALT, and the binding returns to idle (R123). -/
def releaseBinding (i : InIx) (b : BindIx) : Op :=
  Op.cond (fun s => s.boundTo i b && (s.press b).pressed) (Op.chain
    [ Op.emit (fun s => if (s.binding b).repeats then bindWork b 4 (s.binding b).wanted [] s else []),
      Op.set (fun s => s.modPress b (fun _ => ⟨false, none⟩)) ]) Op.skip

/-- A KEY input's accepted change: to active it fires its bindings, in LISTEN and READY only; to inactive it ends their
presses (R122, R123). -/
def keyChange (i : InIx) (active : Bool) : Op :=
  if active then Op.cond State.active (Op.each (fireBinding i) allBinds) Op.skip
  else Op.each (releaseBinding i) allBinds

/-- A repetition falls due: a HOLD is produced, answer wanted clear, and the next is due 100 ms after it (R123; log 33). -/
def repeatHold (b : BindIx) : Op := Op.chain
  [ Op.set (fun s => s.modPress b (fun p => { p with nextHold := p.nextHold.map (fun t => t + ms Config.repeatMs) })),
    Op.emit (bindWork b 3 false []) ]

/-- An ANSWER with this tag and outcome stops the repetition of its binding (R121): outcomes REFUSED, DISPLACED,
EXPIRED and CANCELLED. -/
def stopRepetition (tag outcome : Nat) (s : State) : State :=
  if h : 8 ≤ tag ∧ tag - 8 < 8 ∧ 2 ≤ outcome ∧ outcome ≤ 5 then
    let b : BindIx := ⟨tag - 8, h.2.1⟩
    if (s.press b).pressed then s.modPress b (fun p => { p with nextHold := none }) else s
  else s

end Sys2Proof.Machine
end

