-- ==== Sys2Proof/Machine/Publisher.lean ====
section
/-! DEFINITION. The Peer Table's publisher: compositions (R28, R33), early causes and their spacing (R30, R31). -/

namespace Sys2Proof.Machine

/-- A composition (R28): the sequence advances, the contents as they stand become the last published ones, the mark
clears, both timers restart from 0, and the STATUS is handed to the slot (R11). -/
def compose (s : State) : State :=
  let seq := (s.pub.seq + 1) % 256
  { s with
    pub := { s.pub with seq := seq, period := .running s.now, spacing := .running s.now, mark := false,
                        last := s.contents }
    link := placeStatus (newFrame Config.statusLevel (.status seq s.contents)) s.link }

/-- A piece of work has raised an early cause: it changed what the own STATUS shows to what differs, as R30 has it, from
the last published values (R30). -/
def State.raises (s t : State) : Bool := decide (t.contents ≠ s.contents) && t.pub.last.earlyCause t.contents

/-- The end of an event, `raised` saying whether some piece of its work has raised an early cause: a composition at once
when 20 ms or more have passed since the last one, the early mark otherwise (R30, R31; log 7). -/
def publish (raised : Bool) (s : State) : State :=
  if s.pub.active && raised then
    if ms Config.spacingMs ≤ s.pub.spacing.value s.now then compose s
    else { s with pub := { s.pub with mark := true } }
  else s

/-- The publisher becomes inactive: its timers stop and its mark clears (R33). -/
def Publisher.stop (p : Publisher) : Publisher :=
  { p with active := false, period := .zero, spacing := .zero, mark := false }

end Sys2Proof.Machine
end

