-- ==== Sys2Proof/Machine/Inputs.lean ====
section
/-! DEFINITION. The Input Unit: accepted changes by role (R129, R130), and the current-sense samples with the running draw
and the overcurrent test (R131, R132, R38). The filters' samples stand with the clock, in Ops.lean. -/

namespace Sys2Proof.Machine

/-- The edge of an accepted change is selected (R130). -/
def Edge.selects (e : Edge) (active : Bool) : Bool :=
  match e with
  | .rising => active
  | .falling => !active
  | .both => true

/-- The own ESTOP input (R171): active sets the latch, offers a STOP and starts the re-broadcast timer; inactive stops
the timer at 0. -/
def estopChange (active : Bool) : Op :=
  if active then Op.chain
    [ setLatch,
      Op.emit (fun _ => [.offer (newFrame 0 (.stop .estopInput))]),
      Op.set (fun s => { s with rebroadcast := .running s.now }) ]
  else Op.set (fun s => { s with rebroadcast := .zero })

/-- A local hold input's accepted change: to inactive it loses the hold of a HOLD-TO-RUN holder, on a channel whose hold
source is that input (R151, R125). -/
def holdChange (m : MotIx) (active : Bool) : Op :=
  Op.cond (fun s => !active && (s.motCfg m).localHold && (s.mot m).holder.any (fun h => h.cmd.mode == .holdToRun))
    (loseHold m) Op.skip

/-- An accepted change reaches the block of the input's role (R129, Table 8-1). -/
def roleChange (i : InIx) (active : Bool) : Op := fun s =>
  match s.cfg.roles[i] with
  | .none | .flag => (s, [])
  | .key => keyChange i active s
  | .stowEnd m => endContact m .inward active s
  | .deployEnd m => endContact m .outward active s
  | .pulse m => if (s.motCfg m).edge.selects active then takePulse m s else (s, [])
  | .hold m => holdChange m active s
  | .guard m => if active then tripIfMoving m .guard s else (s, [])
  | .estop => estopChange active s

/-- A filter accepts a new state: it becomes the filtered state, the run count returns to 0, and the change is handed
on; where the Interlock Unit and the block of the role can both act, either may be taken first (R126, R127, R129;
log 5). Of several changes accepted at one sample each becomes the filtered state when it is itself handed on (log 34). -/
def acceptChange (i : InIx) (active : Bool) : Op := Op.chain
  [ Op.set (fun s => (s.modInput i (fun r => { r with filtered := active, runCount := 0, accepted := false }))),
    Op.set (fun s => { s with pins := s.pins.set i active }),
    Op.cond (fun s => s.flagNamed i.val)
      (Op.eitherFirst (fun _ => lockWork (.ownFlag i.val)) (fun _ => [.inputRole i active]))
      (Op.emit (fun _ => [.inputRole i active])) ]

/-- A history with its newest value joined and the oldest gone (R38). -/
def pushSample (h : Vector Nat 16) (v : Nat) : Vector Nat 16 :=
  Vector.ofFn (fun k : Fin 16 => if hk : k.val + 1 < 16 then h[k.val + 1] else v)

/-- The running draw: floor of the mean of the 16 values (R38). -/
def meanDraw (h : Vector Nat 16) : Nat := h.toList.sum / 16

/-- The trip current in force in a state; none where the channel is not energized (R132). -/
def tripCurrent (cfg : MotCfg) : MotionState → Option Nat
  | .starting => some cfg.inrushTrip
  | .running | .stopping => some cfg.runTrip
  | .idle | .claiming | .settling | .tripped => none

/-- The overcurrent test of one converted sample (R132). -/
def overcurrentTest (m : MotIx) (v : Nat) : Op := fun s =>
  match tripCurrent (s.motCfg m) (s.mot m).state with
  | none => (s.modMot m (fun c => { c with overCount := 0 }), [])
  | some limit =>
    if v < limit then (s.modMot m (fun c => { c with overCount := 0 }), [])
    else if (s.mot m).overCount = 0 then (s.modMot m (fun c => { c with overCount := 1 }), [])
    else trip m .overcurrent (s.modMot m (fun c => { c with overCount := 0 }))

/-- One converted sample of a configured channel: the history and the running draw (R38), then the overcurrent test (R132).
R131 lets either consumer be taken first, and this order is the model's (log 38). -/
def takeSample (m : MotIx) (reading : Nat) : Op := fun s =>
  if (s.motCfg m).configured then
    let v := convertReading (s.motCfg m).scale reading
    Op.chain
      [ Op.set (fun t => t.modMot m (fun c =>
          { c with history := pushSample c.history v, running := meanDraw (pushSample c.history v) })),
        Op.set (fun t => recompute (t.motCfg m).segment t),
        overcurrentTest m v ] s
  else (s, [])

/-- The four current-sense inputs are sampled (R131), in index order, which is the model's (R43; log 38); all four are tested
before the sibling trips that a trip among them gives (log 35). -/
def takeSamples (readings : Vector Int 4) : Op := Op.chain
  [ Op.set (fun s => { s with sense := readings.map clampReading }),
    Op.each (fun m : MotIx => takeSample m (clampReading readings[m])) allMots ]

end Sys2Proof.Machine
end

