-- ==== Sys2Proof/Machine/Startup.lean ====
section
/-! DEFINITION. The Start-up Controller: cold start (R174), the end of the image read (R175..R177), the end of LISTEN
(R178) and the two ways into SILENT (R175, R17). -/

namespace Sys2Proof.Machine

/-- The state at the start of a cold start: everything at its cold-start value, with the model's clock, the queue of
commands and the levels at the pins kept, which are not the node's (R174; log 25). -/
def coldStart (s : State) : State :=
  { State.reset with now := s.now, choices := s.choices, resetLow := s.resetLow, pins := s.pins, sense := s.sense,
                     pending := s.pending }

/-- The peer table at cold start, its own entry marked SELF (R19). -/
def freshPeers (ownId : NodeId) : Vector PeerEntry 32 :=
  Vector.ofFn (fun n : NodeId => if n = ownId then { PeerEntry.blank with freshness := .self } else .blank)

/-- A motion channel at the end of LOADING (R136, R135). -/
def freshMotion (cfg : MotCfg) (now : Nat) : MotionCh :=
  if cfg.configured then { MotionCh.blank with state := .settling, deadTimer := .running now } else .blank

/-- The blocks take their cold-start values from the configuration, and each input its first sample (R177, R34, R19,
R76, R136, R128). -/
def buildBlocks (cfg : NodeConfig) (pins : Vector Bool 16) (s : State) : State :=
  { coldStart s with
    mode := .listen
    cfg := cfg
    peers := freshPeers cfg.ownId
    segs := Vector.ofFn (fun g : SegIx => .blank (cfg.segs[g].limit : Int))
    pins := pins
    inputs := pins.map (fun b => ⟨b, 0, false⟩)
    mots := Vector.ofFn (fun m : MotIx => freshMotion cfg.mots[m] s.now)
    listenTimer := .running s.now
    fadeTimer := .running s.now
    sampleTimer := .running s.now
    inputTimer := .running s.now }

/-- The initial referencing of one channel from its first samples (R159). -/
def initialReference (m : MotIx) (s : State) : State :=
  match s.roleActive (.stowEnd m), s.roleActive (.deployEnd m) with
  | true, false => reference m .inward s
  | false, true => reference m .outward s
  | _, _ => s

/-- The posture of one channel as first derived (R160, R161). -/
def initialPosture (m : MotIx) (s : State) : State :=
  s.modMot m (fun c => { c with posture := s.derivePosture m })

/-- The ESTOP input found active at the end of loading: the latch is set, a STOP is offered and the re-broadcast timer
starts (R171). -/
def initialEstop : Op := Op.cond State.estopHeld (estopChange true) Op.skip

/-- LOADING ends with a valid image: LISTEN is entered, with the first samples, the initial referencing, the first
STATUS and, where the ESTOP input is active, the latch and its STOP (R177, R33, R171). -/
def enterListen (cfg : NodeConfig) (pins : Vector Bool 16) (sense : Vector Int 4) : Op := Op.chain
  [ Op.set (buildBlocks cfg pins),
    Op.set (foldState initialReference allMots),
    Op.set (foldState initialPosture allMots),
    takeSamples sense,
    initialEstop,
    Op.set (fun s => compose { s with pub := { s.pub with active := true } }) ]

/-- A failed image check: SILENT with the FAULT output on and no block built (R175). -/
def enterSilentFailed (s : State) : State := { coldStart s with mode := .silent, faultOut := true }

/-- The image read ends (R175). -/
def endImageRead (image : List Byte) (pins : Vector Bool 16) (sense : Vector Int 4) : Op :=
  if imageValid (imageBytes image) then enterListen (readConfig (imageBytes image)) pins sense
  else Op.set enterSilentFailed

/-- LISTEN ends: READY, the available amount freed, the start levels applied (R178, R91). -/
def enterReady : Op := Op.set (fun s => applyStartLevels { s with mode := .ready, listenTimer := .zero })

/-- The blocks whose timers stop in SILENT: LISTEN and fade timers, shed timers, age timers, the publisher (R178, R81,
R59, R105, R33; log 27, log 28). -/
def stopTimers (s : State) : State :=
  { s with
    listenTimer := s.listenTimer.halt s.now
    fadeTimer := s.fadeTimer.halt s.now
    segs := s.segs.map (fun r => { r with deepen := r.deepen.halt s.now, recovery := r.recovery.halt s.now })
    scenes := s.scenes.map (fun a => { a with age := a.age.halt s.now })
    pub := s.pub.stop }

/-- A configured channel's trip with reason CLASH (R17, R155). -/
def clashTrip (m : MotIx) : Op := Op.cond (fun s => (s.motCfg m).configured) (trip m .clash) Op.skip

/-- An id clash: SILENT with FAULT on; the transmit queue and the slot are emptied without reports, the publisher
stops, the pending queue is emptied, every channel trips CLASH and every fade freezes (R16, R17, R33, R93, R119). -/
def enterSilentClash : Op := Op.chain
  [ Op.set (fun s => { s with mode := .silent, faultOut := true }),
    Op.set (fun s => s.modLink (fun l => { l with clashed := true, queue := [], slot := none, slotNext := none })),
    Op.set stopTimers,
    emptyQueue .cancelled,
    Op.each clashTrip allMots,
    Op.set (foldState endFadeHere allDims) ]

end Sys2Proof.Machine
end

