-- ==== Sys2Proof/Machine/Cascade.lean ====
section
/-! DEFINITION. The consequences of an event: what each piece of work does, the whole of an event, in which each
consequence is taken with its own consequences before the next (log 6), and the passing of time with the changes that the
input filters accept on the way. -/

namespace Sys2Proof.Machine

/-- What a piece of work does, and the work that follows it. -/
def perform : Act → Op
  | .offer f => offerFrame f
  | .report sent f => takeReport sent f
  | .take m => takePending m
  | .siblings => siblingTrips
  | .latch => setLatch
  | .evalLocks m e => evaluateLocks m e
  | .contend m g level claimant => contendClaim m g level claimant
  | .inputRole i active => roleChange i active
  | .command c => takeUp c

/-- An upper bound of what one piece of work can set going, what it takes from the state apart. -/
def Act.weight : Act → Nat
  | .offer _ => 2
  | .report _ _ => 1
  | .take _ => 1
  | .siblings => 1
  | .latch => 9
  | .evalLocks _ _ => 1
  | .contend _ _ _ _ => 1
  | .inputRole _ _ => 4000
  | .command _ => 400

/-- What an own claim can still set going: its report, its yield and the take that follows. -/
def ClaimState.weight : ClaimState → Nat
  | .none => 0
  | .opened | .held => 12
  | .waiting => 16

/-- What is left to do: an upper bound of the pieces of work that a list of them can lead to. A channel that trips, a
claim that ends and a pending entry that is taken are each used up. -/
def workLeft (acts : List Act) (s : State) : Nat :=
  (acts.map Act.weight).sum +
    (allMots.map (fun m => (if (s.mot m).state = .tripped then 0 else 24) + (s.claim m).state.weight)).sum +
    64 * s.motionQueue.length

/-- The work is done, each piece with its consequences before the next (log 6). -/
def runActs : Nat → List Act → State → State
  | _, [], s => s
  | 0, _ :: _, s => s
  | n + 1, a :: rest, s => runActs n ((perform a s).2 ++ rest) (perform a s).1

/-- All the work that an operation leaves is done. -/
def settle (x : State × List Act) : State := runActs (workLeft x.2 x.1) x.2 x.1

/-- Some piece of the work raises an early cause at its moment (R30, R161; log 7). -/
def actsRaise : Nat → List Act → State → Bool
  | _, [], _ => false
  | 0, _ :: _, _ => false
  | n + 1, a :: rest, s => s.raises (perform a s).1 || actsRaise n ((perform a s).2 ++ rest) (perform a s).1

/-- Some piece of all the work that an operation leaves raises an early cause. -/
def settleRaises (x : State × List Act) : Bool := actsRaise (workLeft x.2 x.1) x.2 x.1

/-- An event: an operation, its consequences, and the early causes they raised (log 6, log 7). -/
def event (op : Op) (s : State) : State := publish (s.raises (op s).1 || settleRaises (op s)) (settle (op s))

/-! ## The passing of time -/

/-- The inputs whose filters have accepted a change that has not yet been handed on, in index order. -/
def State.accepted (s : State) : List InIx := allInputs.filter s.hasAccepted

/-- The first moment, up to a given one, at which a filter accepts a change (R126, R127). -/
def State.nextStop (s : State) (t : Nat) : Nat := (allInputs.filterMap s.acceptDue).foldl min t

/-- An accepted change is handed on, as an event of its own (R129). -/
def handOn (i : InIx) (s : State) : State := event (acceptChange i (!(s.input i).filtered)) s

/-- Time passes up to a moment: the filters take their samples, and each change they accept before that moment is handed
on when it is accepted; of several of one moment a free value says which is first (R126, R127, R129; log 4). The number
bounds the changes and the moments between. -/
def passFilters : Nat → Nat → State → State
  | 0, _, s => s
  | n + 1, t, s =>
    if t ≤ s.now then s
    else
      match s.accepted with
      | [] => passFilters n t (s.clockTo (s.nextStop t))
      | [i] => passFilters n t (handOn i s)
      | i :: j :: rest =>
        passFilters n t (handOn ((i :: j :: rest).getD (Config.tieBreak s.choices % (i :: j :: rest).length) i)
          { s with choices := s.choices + 1 })

/-- The node at a later moment. Each of the sixteen filters accepts at most once on the way, since a raw level changes only
between commands; a change accepted at that very moment is left to be taken before or after what falls due there (R126,
R127; log 2, log 4). -/
def State.passTo (s : State) (t : Nat) : State := (passFilters 33 t s).clockTo t

/-- An event that a timer raises at the moment it falls due, if it does: time passes up to there, and a timer that an
input change has stopped or restarted on the way has no event (log 2, log 10). -/
def expiry (due : State → Option Nat) (op : Op) (s : State) : State :=
  match due s with
  | none => s
  | some t => if due (s.passTo t) = some t then event op (s.passTo t) else s.passTo t

/-- What an arrived frame of a kind does: nothing, an id clash, or what its owner makes of it (R6, R7, R16, R17). -/
def arrival (k : Kind) (f : Frame) (owner : Op) (s : State) : State :=
  match s.reception k f with
  | .nothing => s
  | .clash => event enterSilentClash s
  | .delivered => event owner s

/-- A COMMAND frame of a verb: one for another id, or of another verb than the row's, has no effect (R106; log 10). -/
def commandArrival (v : Option Verb) (f : Frame) (obey : Cmd → Op) (s : State) : State :=
  arrival .command f
    (Op.cond (fun t => decide (cmdTarget f.payload = t.cfg.ownId) && verbOf (cmdKind f.payload) (cmdVerb f.payload) == v)
      (obey (frameCmd s.cfg f)) Op.skip) s

end Sys2Proof.Machine
end

