-- ==== Sys2Proof/Machine/Arrivals.lean ====
section
/-! DEFINITION. The meanings of the arrivals of frames other than COMMAND, each in the block that owns its kind
(Table 1-3). -/

namespace Sys2Proof.Machine

/-- The entry of a peer after an accepted STATUS (R20). -/
def heardPeer (p : List Byte) (now : Nat) : PeerEntry :=
  { freshness := .fresh, seq := some (byteAt p 0), since := .running now, contents := readStatus p }

/-- A STATUS with this sequence is a duplicate of what the entry holds (R20). -/
def PeerEntry.duplicates (e : PeerEntry) (seq : Nat) : Bool := e.freshness != .absent && e.seq == some seq

/-- An accepted STATUS: the entry is updated, every segment recomputed, the interlock entries on the peer evaluated,
and E-stop held sets the stop latch (R20, R22, R24, R170; log 29). -/
def acceptStatus (n : NodeId) (p : List Byte) : Op := Op.chain
  [ Op.set (fun s => s.modPeer n (fun _ => heardPeer p s.now)),
    Op.set recomputeAll,
    Op.emit (fun _ => lockWork (.peer n)),
    Op.emit (fun s => if (s.peer n).contents.bits.estopHeld then [.latch] else []) ]

/-- STATUS_ARRIVAL (R20, R22, R24). -/
def execStatusArrival (f : Frame) (s : State) : Host.Outcome State Fault Refusal :=
  .next (arrival .status f
    (Op.cond (fun t => (t.peer (frameSource f)).duplicates (byteAt f.payload 0)) Op.skip
      (acceptStatus (frameSource f) f.payload)) s)

/-- The entry that a nonzero CLAIM is stored as (R61). -/
def claimEntry (f : Frame) (now : Nat) : ForeignClaim :=
  { claimant := frameSource f
    tag := claimTag f.payload
    segment := claimSegment f.payload
    amount := claimAmount f.payload
    level := f.level.toNat
    expiry := now + ms (10 * claimHold f.payload) }

/-- The own claims that an arrived claim is put to, in channel index order (R70). -/
def contendWork (e : ForeignClaim) : List Act := allMots.map (fun m => .contend m e.segment e.level e.claimant)

/-- A delivered CLAIM: a withdrawal, a stored claim with its contention, or saturation (R61, R62, R64, R70). -/
def takeClaim (f : Frame) : Op := fun s =>
  let e := claimEntry f s.now
  if e.amount = 0 then (removeClaim e.claimant e.tag s, [])
  else if s.hasRoomFor e.claimant e.tag then (storeClaim e s, contendWork e)
  else ({ s with saturated := true }, [])

/-- CLAIM_ARRIVAL (R61, R62, R64, R70). -/
def execClaimArrival (f : Frame) (s : State) : Host.Outcome State Fault Refusal :=
  .next (arrival .claim f (takeClaim f) s)

/-- An ANSWER for the own id (R121). -/
def takeAnswer (p : List Byte) (s : State) : State :=
  if idField (byteAt p 0) = s.cfg.ownId then stopRepetition (bitField (byteAt p 1) 0 4) (byteAt p 2) s else s

/-- ANSWER_ARRIVAL (R121). -/
def execAnswerArrival (f : Frame) (s : State) : Host.Outcome State Fault Refusal :=
  .next (arrival .answer f (Op.set (takeAnswer f.payload)) s)

/-- A delivered SCENE (R95, R96). -/
def takeScene (p : List Byte) (s : State) : State :=
  if sceneAccepted s p then takePart (sceneNumber p) (sceneParts p) (scenePart p) (sceneFade p) (sceneEntries p) s else s

/-- SCENE_ARRIVAL (R95..R98). -/
def execSceneArrival (f : Frame) (s : State) : Host.Outcome State Fault Refusal :=
  .next (arrival .scene f (Op.set (takeScene f.payload)) s)

/-- CUE_ARRIVAL (R101..R103). -/
def execCueArrival (f : Frame) (s : State) : Host.Outcome State Fault Refusal :=
  .next (arrival .cue f (Op.set (applyCue (byteAt f.payload 0))) s)

/-- STOP_ARRIVAL: any reason, from any station, at any level (R172, R181). -/
def execStopArrival (f : Frame) (s : State) : Host.Outcome State Fault Refusal := .next (arrival .stop f setLatch s)

/-- A RELEASE of this source clears the latch (R173). -/
def State.releases (s : State) (source : NodeId) : Bool :=
  s.cfg.isSafety source && !s.estopHeld && !s.peerHoldsEstop

/-- RELEASE_ARRIVAL (R173). -/
def execReleaseArrival (f : Frame) (s : State) : Host.Outcome State Fault Refusal :=
  .next (arrival .release f
    (Op.set (fun t => if t.releases (frameSource f) then { t with stopLatch := false } else t)) s)

end Sys2Proof.Machine
end

