-- ==== Sys2Proof/Machine/DimmerCommands.lean ====
section
/-! DEFINITION. The meanings of the DIMMER commands as frames: SET, NUDGE and FREEZE. -/

namespace Sys2Proof.Machine

/-- SET (R84). -/
def execSet (f : Frame) (s : State) : Host.Outcome State Fault Refusal :=
  .next (commandArrival (some .set) f setCommand s)

/-- NUDGE (R85). -/
def execNudge (f : Frame) (s : State) : Host.Outcome State Fault Refusal :=
  .next (commandArrival (some .nudge) f nudgeCommand s)

/-- FREEZE (R86). -/
def execFreeze (f : Frame) (s : State) : Host.Outcome State Fault Refusal :=
  .next (commandArrival (some .freeze) f freezeCommand s)

end Sys2Proof.Machine
end

