-- ==== Sys2Proof/Machine/LineEvents.lean ====
section
/-! DEFINITION. The meanings of the line's commands: LINE_IDLE, ARBITRATION_LOSS, TRANSMIT_ERROR and FRAME_SENT. -/

namespace Sys2Proof.Machine

/-- LINE_IDLE: the line falls idle, which the Link Controller sees once LOADING has ended (R1, R12). -/
def execLineIdle (s : State) : Host.Outcome State Fault Refusal := .next (if s.built then lineBecomesIdle s else s)

/-- ARBITRATION_LOSS: the frame on the line loses and keeps its place (R3). -/
def execArbitrationLoss (s : State) : Host.Outcome State Fault Refusal := .next (loseArbitration s)

/-- TRANSMIT_ERROR: the attempt on the line fails (R13). -/
def execTransmitError (s : State) : Host.Outcome State Fault Refusal :=
  .next (if s.link.busy then event failAttempt s else s)

/-- FRAME_SENT: the attempt on the line reaches its end mark (R13, R15). -/
def execFrameSent (s : State) : Host.Outcome State Fault Refusal :=
  .next (if s.link.busy then event completeAttempt s else s)

end Sys2Proof.Machine
end

