-- ==== Sys2Proof/Machine/MotionCommands.lean ====
section
/-! DEFINITION. The meanings of the MOTION commands as frames: MOVE, HOME, HOLD and HALT. -/

namespace Sys2Proof.Machine

/-- MOVE (R111). -/
def execMove (f : Frame) (s : State) : Host.Outcome State Fault Refusal :=
  .next (commandArrival (some .move) f moveCommand s)

/-- HOME (R138). -/
def execHome (f : Frame) (s : State) : Host.Outcome State Fault Refusal :=
  .next (commandArrival (some .home) f homeCommand s)

/-- HOLD (R113). -/
def execHold (f : Frame) (s : State) : Host.Outcome State Fault Refusal :=
  .next (commandArrival (some .hold) f holdCommand s)

/-- HALT (R112). -/
def execHalt (f : Frame) (s : State) : Host.Outcome State Fault Refusal :=
  .next (commandArrival (some .halt) f haltCommand s)

end Sys2Proof.Machine
end

