-- ==== Sys2Proof/Machine/NodeCommands.lean ====
section
/-! DEFINITION. The meanings of the NODE commands as frames, FLAG, CANCEL and RESTART, and of a COMMAND whose channel
kind or verb Table 13-3 lacks. -/

namespace Sys2Proof.Machine

/-- FLAG (R108). -/
def execFlag (f : Frame) (s : State) : Host.Outcome State Fault Refusal :=
  .next (commandArrival (some .flag) f flagCommand s)

/-- CANCEL (R109). -/
def execCancel (f : Frame) (s : State) : Host.Outcome State Fault Refusal :=
  .next (commandArrival (some .cancel) f cancelCommand s)

/-- RESTART (R110). -/
def execRestart (f : Frame) (s : State) : Host.Outcome State Fault Refusal :=
  .next (commandArrival (some .restart) f restartCommand s)

/-- UNKNOWN_VERB_COMMAND: refused BAD-ARGUMENT (R107, R181). -/
def execUnknownVerbCommand (f : Frame) (s : State) : Host.Outcome State Fault Refusal :=
  .next (commandArrival none f badArgument s)

end Sys2Proof.Machine
end

