-- ==== Sys2Proof/Machine/Due.lean ====
section
/-! DEFINITION. When each timer of the node falls due: the moment of the clock at which its event happens, or none where
the timer does not run or has no event in the state (log 2). -/

namespace Sys2Proof.Machine

/-- The end of LISTEN (R178). -/
def State.listenDue (s : State) : Option Nat :=
  if s.mode = .listen then s.listenTimer.due Config.listenMs else none

/-- A FRESH peer goes LATE (R21). -/
def State.lateDue (s : State) (n : NodeId) : Option Nat :=
  if (s.peer n).freshness = .fresh then (s.peer n).since.due Config.lateMs else none

/-- A LATE peer goes LOST (R21). -/
def State.lostDue (s : State) (n : NodeId) : Option Nat :=
  if (s.peer n).freshness = .late then (s.peer n).since.due Config.lostMs else none

/-- The publisher's period ends (R29). -/
def State.periodDue (s : State) : Option Nat :=
  if s.pub.active then s.pub.period.due Config.periodMs else none

/-- The publisher's spacing ends with the early mark set (R31). -/
def State.spacingDue (s : State) : Option Nat :=
  if s.pub.active && s.pub.mark then s.pub.spacing.due Config.spacingMs else none

/-- A segment's deepen timer ends in SHED-1 (R53). -/
def State.deepenDue (s : State) (g : SegIx) : Option Nat :=
  if (s.seg g).shed = .shed1 then (s.seg g).deepen.due Config.deepenMs else none

/-- A segment's recovery timer ends in SHED-1 or SHED-2 (R55). -/
def State.recoveryDue (s : State) (g : SegIx) : Option Nat :=
  if (s.seg g).shed ≠ .normal then (s.seg g).recovery.due Config.recoveryMs else none

/-- The next fade tick (R81). -/
def State.tickDue (s : State) : Option Nat := s.fadeTimer.due Config.tickMs

/-- The tick at which a fade takes its last step (R81). -/
def Fade.endDue (f : Fade) (ticks : Timer) : Option Nat := ticks.due (Config.tickMs * (f.steps - f.taken))

/-- A dimmer channel's fade ends (R81). -/
def State.fadeEndDue (s : State) (d : DimIx) : Option Nat := (s.dim d).fade.bind (fun f => f.endDue s.fadeTimer)

/-- A STOPPING channel's speed fade ends (R147). -/
def State.stopFadeDue (s : State) (m : MotIx) : Option Nat :=
  if (s.mot m).state = .stopping then (s.mot m).speedFade.bind (fun f => f.endDue s.fadeTimer) else none

/-- The next current sample (R131). -/
def State.sampleDue (s : State) : Option Nat := s.sampleTimer.due Config.sampleMs

/-- The re-broadcast timer ends (R171). -/
def State.rebroadcastDue (s : State) : Option Nat := s.rebroadcast.due Config.rebroadcastMs

/-- A channel's own claim reaches its settle end (R72). -/
def State.settleDue (s : State) (m : MotIx) : Option Nat :=
  if (s.claim m).state = .opened ∧ (s.mot m).state = .claiming then (s.claim m).settle.due Config.settleMs else none

/-- A HELD claim's hold runs out (R69). -/
def State.claimHoldDue (s : State) (m : MotIx) : Option Nat :=
  if (s.claim m).state = .held then (s.claim m).holdEnd else none

/-- A foreign claim expires (R63). -/
def State.foreignDue (s : State) (n : NodeId) (tag : Nat) : Option Nat := (s.foreignEntry n tag).map (fun e => e.expiry)

/-- A pending entry expires (R117). -/
def State.pendingDue (s : State) (origin : NodeId) (tag : Nat) : Option Nat :=
  (s.pendingEntry origin tag).map (fun e => e.deadline)

/-- A SETTLING channel's dead time ends (R149). -/
def State.deadDue (s : State) (m : MotIx) : Option Nat :=
  if (s.mot m).state = .settling then (s.mot m).deadTimer.due (s.motCfg m).deadTime else none

/-- A holder's hold deadline is reached (R150). -/
def State.holdDeadlineDue (s : State) (m : MotIx) : Option Nat :=
  match (s.mot m).state with
  | .claiming | .starting | .running => (s.mot m).holder.bind (fun h => h.deadline)
  | .idle | .stopping | .settling | .tripped => none

/-- The stall timer reaches the stall time (R162). -/
def State.stallDue (s : State) (m : MotIx) : Option Nat :=
  if (s.mot m).state.isDriven && s.stallTested m then (s.mot m).stallTimer.due (s.motCfg m).stallTime else none

/-- An assembly's age timer ends (R100). -/
def State.sceneDue (s : State) (n : Nat) : Option Nat :=
  (s.assembly n).bind (fun a => a.age.due Config.sceneAgeMs)

/-- A binding's next HOLD is due (R123). -/
def State.repeatDue (s : State) (b : BindIx) : Option Nat := (s.press b).nextHold

end Sys2Proof.Machine
end

