-- ==== Sys2Proof/Machine/SampleEvents.lean ====
section
/-! DEFINITION. The meanings of the ticks and samples: FADE_TICK, FADE_END, STOPPING_FADE_END, CURRENT_SAMPLE and
INPUT_CHANGE_ACCEPTED. -/

namespace Sys2Proof.Machine

/-- The fade tick: every dimmer fade and every speed fade takes one step, and the next tick is due 10 ms after this one
(R81, R144). All the steps come before what the new postures of channels entering SETTLING set going (R147, R161; log 6). -/
def fadeTick : Op := Op.chain
  [ Op.set (fun s => { s with fadeTimer := s.fadeTimer.again Config.tickMs }),
    Op.set (foldState stepDimmer allDims),
    Op.each stepSpeed allMots ]

/-- FADE_TICK (R81). -/
def execFadeTick (s : State) : Host.Outcome State Fault Refusal :=
  .next (expiry State.tickDue fadeTick s)

/-- FADE_END: the fade reaches its last step (R81; log 15). -/
def execFadeEnd (d : DimIx) (s : State) : Host.Outcome State Fault Refusal :=
  .next (expiry (fun u => u.fadeEndDue d) (Op.set (endDimmerFade d)) s)

/-- STOPPING_FADE_END: the stopping speed fade reaches 0 (R147; log 15). -/
def execStoppingFadeEnd (m : MotIx) (s : State) : Host.Outcome State Fault Refusal :=
  .next (expiry (fun u => u.stopFadeDue m) (stepSpeedTo m (fun f => f.steps)) s)

/-- One round of current samples; the next is due 1 ms after this one (R131). -/
def sampleCurrents (readings : Vector Int 4) : Op := Op.chain
  [ Op.set (fun s => { s with sampleTimer := s.sampleTimer.again Config.sampleMs }),
    takeSamples readings ]

/-- CURRENT_SAMPLE (R131). -/
def execCurrentSample (readings : Vector Int 4) (s : State) : Host.Outcome State Fault Refusal :=
  .next (expiry State.sampleDue (sampleCurrents readings) s)

/-- INPUT_CHANGE_ACCEPTED: a change to the state the filter already holds is none (R129; log 10). -/
def execInputChangeAccepted (i : InIx) (active : Bool) (s : State) : Host.Outcome State Fault Refusal :=
  .next (if s.built && decide ((s.input i).filtered ≠ active) then event (acceptChange i active) s else s)

end Sys2Proof.Machine
end

