-- ==== Sys2Proof/Machine/StartupEvents.lean ====
section
/-! DEFINITION. The meanings of the start-up commands: POWER_ON, RESET_LOW, RESET_HIGH, IMAGE_READ_END and
LISTEN_TIMER_EXPIRY. -/

namespace Sys2Proof.Machine

/-- POWER_ON: a cold start begins (R174). -/
def execPowerOn (s : State) : Host.Outcome State Fault Refusal := .next (coldStart s)

/-- RESET_LOW: every output goes off, FAULT included, and what the node was doing ends (R174). -/
def execResetLow (s : State) : Host.Outcome State Fault Refusal := .next { coldStart s with resetLow := true }

/-- RESET_HIGH: RESET returning high begins a cold start (R174). -/
def execResetHigh (s : State) : Host.Outcome State Fault Refusal :=
  .next (if s.resetLow then { coldStart s with resetLow := false } else s)

/-- IMAGE_READ_END: in LOADING, with RESET high, the image is checked, and taken or not (R175..R177). -/
def execImageReadEnd (image : List Byte) (pins : Vector Bool 16) (sense : Vector Int 4) (s : State) :
    Host.Outcome State Fault Refusal :=
  .next (if s.mode = .loading ∧ s.resetLow = false then event (endImageRead image pins sense) s else s)

/-- LISTEN_TIMER_EXPIRY: the node enters READY (R178). -/
def execListenTimerExpiry (s : State) : Host.Outcome State Fault Refusal := .next (expiry State.listenDue enterReady s)

end Sys2Proof.Machine
end

