-- ==== Sys2Proof/Machine/TimerEvents.lean ====
section
/-! DEFINITION. The meanings of the timers' commands: peers, publisher, shed timers, claims, pending entries, channels,
scenes, the re-broadcast timer and HOLD repetition. Each brings the node to the moment its timer falls due (log 2). -/

namespace Sys2Proof.Machine

/-- A change of freshness, handed to the Budget Unit and then to the Interlock Unit (R23, R170; log 29). -/
def changeFreshness (n : NodeId) (f : PeerEntry → PeerEntry) : Op := Op.chain
  [ Op.set (fun s => s.modPeer n f),
    Op.set recomputeAll,
    Op.emit (fun _ => lockWork (.peer n)) ]

/-- PEER_LATE (R21, R23). -/
def execPeerLate (n : NodeId) (s : State) : Host.Outcome State Fault Refusal :=
  .next (expiry (fun u => u.lateDue n) (changeFreshness n (fun e => { e with freshness := .late })) s)

/-- PEER_LOST: the time stops at 1500 ms (R21, R23). -/
def execPeerLost (n : NodeId) (s : State) : Host.Outcome State Fault Refusal :=
  .next (expiry (fun u => u.lostDue n)
    (changeFreshness n (fun e => { e with freshness := .lost, since := .stopped (ms Config.lostMs) })) s)

/-- PERIOD_TIMER_EXPIRY: a composition (R29). -/
def execPeriodTimerExpiry (s : State) : Host.Outcome State Fault Refusal := .next (expiry State.periodDue (Op.set compose) s)

/-- SPACING_TIME_EXPIRY: with the early mark set, a composition (R31). -/
def execSpacingTimeExpiry (s : State) : Host.Outcome State Fault Refusal :=
  .next (expiry State.spacingDue (Op.set compose) s)

/-- SHED-1 deepens to SHED-2, and class 1 is capped (R53, R56). -/
def deepenShed (g : SegIx) (s : State) : State :=
  capClass g 1 (s.modSeg g (fun r => { r with shed := .shed2, deepen := .zero }))

/-- DEEPEN_TIMER_EXPIRY (R53). -/
def execDeepenTimerExpiry (g : SegIx) (s : State) : Host.Outcome State Fault Refusal :=
  .next (expiry (fun u => u.deepenDue g) (Op.set (deepenShed g)) s)

/-- The segment steps back one shed state and uncaps the class of the state it leaves (R55, R58). -/
def recoverShed (g : SegIx) (s : State) : State :=
  match (s.seg g).shed with
  | .shed2 => uncapClass g 1 (s.modSeg g (fun r => { r with shed := .shed1, recovery := .running s.now }))
  | .shed1 => uncapClass g 2 (s.modSeg g (fun r => { r with shed := .normal, deepen := .zero, recovery := .zero }))
  | .normal => s

/-- RECOVERY_TIMER_EXPIRY (R55). -/
def execRecoveryTimerExpiry (g : SegIx) (s : State) : Host.Outcome State Fault Refusal :=
  .next (expiry (fun u => u.recoveryDue g) (Op.set (recoverShed g)) s)

/-- HOLD_REPETITION (R123). -/
def execHoldRepetition (b : BindIx) (s : State) : Host.Outcome State Fault Refusal :=
  .next (expiry (fun u => u.repeatDue b) (repeatHold b) s)

/-- A STOP RE-BROADCAST is offered, and its timer restarts (R171). -/
def rebroadcastStop : Op := Op.chain
  [ Op.emit (fun _ => [.offer (newFrame 0 (.stop .rebroadcast))]),
    Op.set (fun s => { s with rebroadcast := .running s.now }) ]

/-- RE_BROADCAST_TIMER_EXPIRY (R171). -/
def execReBroadcastTimerExpiry (s : State) : Host.Outcome State Fault Refusal :=
  .next (expiry State.rebroadcastDue rebroadcastStop s)

/-- SETTLE_END (R72). -/
def execSettleEnd (m : MotIx) (s : State) : Host.Outcome State Fault Refusal :=
  .next (expiry (fun u => u.settleDue m) (settleClaim m) s)

/-- CLAIM_HOLD_EXPIRY: the claim ends, and STARTING with it (R69, R143). -/
def execClaimHoldExpiry (m : MotIx) (s : State) : Host.Outcome State Fault Refusal :=
  .next (expiry (fun u => u.claimHoldDue m) (Op.chain [Op.set (endHold m), enterRunning m]) s)

/-- FOREIGN_CLAIM_EXPIRY (R63). -/
def execForeignClaimExpiry (claimant : NodeId) (tag : Fin 8) (s : State) : Host.Outcome State Fault Refusal :=
  .next (expiry (fun u => u.foreignDue claimant tag.val) (Op.set (removeClaim claimant tag.val)) s)

/-- PENDING_DEADLINE_EXPIRY (R117). -/
def execPendingDeadlineExpiry (origin : NodeId) (tag : Fin 16) (s : State) : Host.Outcome State Fault Refusal :=
  .next (expiry (fun u => u.pendingDue origin tag.val) (removePending origin tag.val .expired) s)

/-- The first pending entry for the channel outranks its follow-on (R149). -/
def State.followOnOutranked (s : State) (m : MotIx) (h : Holder) : Bool :=
  (s.motionQueue.find? (fun e => e.channel == m)).any (fun e => decide (e.cmd.level < h.cmd.level))

/-- The end of a SETTLING channel's dead time: its follow-on is displaced, or put to the start check, and the channel
otherwise becomes IDLE (R149). -/
def endDeadTime (m : MotIx) : Op := fun s =>
  match (s.mot m).followOn with
  | none => becomeIdle m s
  | some h =>
    let cleared := s.modMot m (fun c => { c with followOn := none })
    if s.followOnOutranked m h then Op.chain [answerMotion h.cmd .displaced, becomeIdle m] cleared
    else takeCommand m h.cmd h.deadline h.deadline (becomeIdle m) (becomeIdle m) cleared

/-- DEAD_TIME_END (R149). -/
def execDeadTimeEnd (m : MotIx) (s : State) : Host.Outcome State Fault Refusal :=
  .next (expiry (fun u => u.deadDue m) (endDeadTime m) s)

/-- HOLD_DEADLINE_EXPIRY (R150). -/
def execHoldDeadlineExpiry (m : MotIx) (s : State) : Host.Outcome State Fault Refusal :=
  .next (expiry (fun u => u.holdDeadlineDue m) (loseHold m) s)

/-- STALL_TIMER_EXPIRY (R162). -/
def execStallTimerExpiry (m : MotIx) (s : State) : Host.Outcome State Fault Refusal :=
  .next (expiry (fun u => u.stallDue m) (trip m .stall) s)

/-- SCENE_AGE_TIMER_EXPIRY (R100). -/
def execSceneAgeTimerExpiry (scene : Byte) (s : State) : Host.Outcome State Fault Refusal :=
  .next (expiry (fun u => u.sceneDue scene.toNat) (Op.set (discardScene scene.toNat)) s)

end Sys2Proof.Machine
end

