-- ==== Sys2Proof/Machine/Dispatch.lean ====
section
/-! DEFINITION. The dispatch: each command's meaning, one arm for each row of spec/opcode_table.json. -/

namespace Sys2Proof.Machine

/-- A command's effect on everything but the queue of commands. -/
def exec (i : Instr) (s : State) : Host.Outcome State Fault Refusal :=
  match i with
  | .powerOn => Sys2Proof.Machine.execPowerOn s
  | .resetLow => Sys2Proof.Machine.execResetLow s
  | .resetHigh => Sys2Proof.Machine.execResetHigh s
  | .imageReadEnd image pins sense => Sys2Proof.Machine.execImageReadEnd image pins sense s
  | .listenTimerExpiry => Sys2Proof.Machine.execListenTimerExpiry s
  | .lineIdle => Sys2Proof.Machine.execLineIdle s
  | .arbitrationLoss => Sys2Proof.Machine.execArbitrationLoss s
  | .transmitError => Sys2Proof.Machine.execTransmitError s
  | .frameSent => Sys2Proof.Machine.execFrameSent s
  | .statusArrival f => Sys2Proof.Machine.execStatusArrival f s
  | .claimArrival f => Sys2Proof.Machine.execClaimArrival f s
  | .answerArrival f => Sys2Proof.Machine.execAnswerArrival f s
  | .sceneArrival f => Sys2Proof.Machine.execSceneArrival f s
  | .cueArrival f => Sys2Proof.Machine.execCueArrival f s
  | .stopArrival f => Sys2Proof.Machine.execStopArrival f s
  | .releaseArrival f => Sys2Proof.Machine.execReleaseArrival f s
  | .set f => Sys2Proof.Machine.execSet f s
  | .nudge f => Sys2Proof.Machine.execNudge f s
  | .freeze f => Sys2Proof.Machine.execFreeze f s
  | .move f => Sys2Proof.Machine.execMove f s
  | .home f => Sys2Proof.Machine.execHome f s
  | .hold f => Sys2Proof.Machine.execHold f s
  | .halt f => Sys2Proof.Machine.execHalt f s
  | .flag f => Sys2Proof.Machine.execFlag f s
  | .cancel f => Sys2Proof.Machine.execCancel f s
  | .restart f => Sys2Proof.Machine.execRestart f s
  | .peerLate n => Sys2Proof.Machine.execPeerLate n s
  | .peerLost n => Sys2Proof.Machine.execPeerLost n s
  | .periodTimerExpiry => Sys2Proof.Machine.execPeriodTimerExpiry s
  | .spacingTimeExpiry => Sys2Proof.Machine.execSpacingTimeExpiry s
  | .deepenTimerExpiry g => Sys2Proof.Machine.execDeepenTimerExpiry g s
  | .recoveryTimerExpiry g => Sys2Proof.Machine.execRecoveryTimerExpiry g s
  | .fadeTick => Sys2Proof.Machine.execFadeTick s
  | .fadeEnd d => Sys2Proof.Machine.execFadeEnd d s
  | .stoppingFadeEnd m => Sys2Proof.Machine.execStoppingFadeEnd m s
  | .currentSample readings => Sys2Proof.Machine.execCurrentSample readings s
  | .inputChangeAccepted input active => Sys2Proof.Machine.execInputChangeAccepted input active s
  | .holdRepetition b => Sys2Proof.Machine.execHoldRepetition b s
  | .reBroadcastTimerExpiry => Sys2Proof.Machine.execReBroadcastTimerExpiry s
  | .settleEnd m => Sys2Proof.Machine.execSettleEnd m s
  | .claimHoldExpiry m => Sys2Proof.Machine.execClaimHoldExpiry m s
  | .foreignClaimExpiry claimant tag => Sys2Proof.Machine.execForeignClaimExpiry claimant tag s
  | .pendingDeadlineExpiry origin tag => Sys2Proof.Machine.execPendingDeadlineExpiry origin tag s
  | .deadTimeEnd m => Sys2Proof.Machine.execDeadTimeEnd m s
  | .holdDeadlineExpiry m => Sys2Proof.Machine.execHoldDeadlineExpiry m s
  | .stallTimerExpiry m => Sys2Proof.Machine.execStallTimerExpiry m s
  | .sceneAgeTimerExpiry scene => Sys2Proof.Machine.execSceneAgeTimerExpiry scene s
  | .unknownVerbCommand f => Sys2Proof.Machine.execUnknownVerbCommand f s

end Sys2Proof.Machine
end

