-- ==== Sys2Proof/Machine/Idle.lean ====
section
/-! DEFINITION. What the node does by itself when no command waits (log 3, log 4): its timers' commands as they fall due
and its filters' as they accept a change, and otherwise the passing of at most 250 microseconds. -/

namespace Sys2Proof.Machine

/-- A due moment with its command. -/
def dueWith (c : Instr) (due : Option Nat) : List (Nat × Instr) := (due.map (fun t => (t, c))).toList

/-- The commands of the node's own timers with the moments at which they fall due, and those of its filters with the
moments at which they accept a change. -/
def State.dueCommands (s : State) : List (Nat × Instr) :=
  dueWith .listenTimerExpiry s.listenDue ++
  allIds.flatMap (fun n => dueWith (.peerLate n) (s.lateDue n)) ++
  allIds.flatMap (fun n => dueWith (.peerLost n) (s.lostDue n)) ++
  dueWith .periodTimerExpiry s.periodDue ++
  dueWith .spacingTimeExpiry s.spacingDue ++
  allSegs.flatMap (fun g => dueWith (.deepenTimerExpiry g) (s.deepenDue g)) ++
  allSegs.flatMap (fun g => dueWith (.recoveryTimerExpiry g) (s.recoveryDue g)) ++
  dueWith .fadeTick s.tickDue ++
  dueWith (.currentSample (s.sense.map Int.ofNat)) s.sampleDue ++
  allBinds.flatMap (fun b => dueWith (.holdRepetition b) (s.repeatDue b)) ++
  dueWith .reBroadcastTimerExpiry s.rebroadcastDue ++
  allMots.flatMap (fun m => dueWith (.settleEnd m) (s.settleDue m)) ++
  allMots.flatMap (fun m => dueWith (.claimHoldExpiry m) (s.claimHoldDue m)) ++
  s.foreign.map (fun e => (e.expiry, .foreignClaimExpiry e.claimant (Fin.ofNat 8 e.tag))) ++
  s.motionQueue.map (fun e => (e.deadline, .pendingDeadlineExpiry e.cmd.origin (Fin.ofNat 16 e.cmd.tag))) ++
  allMots.flatMap (fun m => dueWith (.deadTimeEnd m) (s.deadDue m)) ++
  allMots.flatMap (fun m => dueWith (.holdDeadlineExpiry m) (s.holdDeadlineDue m)) ++
  allMots.flatMap (fun m => dueWith (.stallTimerExpiry m) (s.stallDue m)) ++
  s.scenes.flatMap (fun a => dueWith (.sceneAgeTimerExpiry (BitVec.ofNat 8 a.scene)) (s.sceneDue a.scene)) ++
  allInputs.flatMap (fun i => dueWith (.inputChangeAccepted i (!(s.input i).filtered)) (s.acceptDue i))

/-- The earliest moment of a list, if it has one. -/
def earliest (l : List (Nat × Instr)) : Option Nat := (l.map Prod.fst).min?

/-- The commands that have fallen due and are the earliest (log 4). -/
def State.ripe (s : State) : List Instr :=
  match earliest s.dueCommands with
  | some t => if t ≤ s.now then (s.dueCommands.filter (fun p => p.1 == t)).map Prod.snd else []
  | none => []

/-- Time passes: 250 microseconds, or less where something falls due before (log 3). -/
def State.tick (s : State) : State := s.clockTo ((s.dueCommands.map Prod.fst).foldl min (s.now + Config.pulseUs))

/-- The idle step: of the timers that have fallen due and the changes that have been accepted, the earliest puts its command
in the queue, a free value choosing among several of one moment; where there is none, time passes (log 3, log 4). -/
def State.idle (s : State) : State :=
  match s.ripe with
  | [] => s.tick
  | [c] => { s with pending := [c] }
  | c :: rest =>
    { s with
      choices := s.choices + 1
      pending := [(c :: rest).getD (Config.tieBreak s.choices % (c :: rest).length) c] }

end Sys2Proof.Machine
end

