-- ==== Sys2Proof/Safety.lean ====
section
/-! DEFINITION. What a sound node is: the laws the manual states of it, each a decidable property of the state. -/

namespace Sys2Proof.Machine

/-! ## Motion -/

/-- The states of a channel that has a holder (R141, R147). -/
def MotionState.isHeld : MotionState → Bool
  | .claiming | .starting | .running => true
  | .idle | .stopping | .settling | .tripped => false

/-- A motion channel: its direction outputs are on just as its state and direction say, a moving channel has a direction,
a channel that is not energized has its speed output at 0 with no fade (R137, R143, R147, R148, R165), a holder stands in
CLAIMING, STARTING and RUNNING only, a follow-on in STOPPING and SETTLING only (R141, R147, R154), the stall timer runs in
STARTING and RUNNING only (R162), and a trip reason is kept in TRIPPED only (R165, R167). -/
abbrev MotionCh.Lawful (c : MotionCh) : Prop :=
  c.outOn = (c.state.isEnergized && c.direction == some .outward) ∧
  c.inOn = (c.state.isEnergized && c.direction == some .inward) ∧
  (c.state.isMoving = true → c.direction.isSome = true) ∧
  (c.state.isEnergized = false → c.speed = 0 ∧ c.speedWaiting = 0 ∧ c.speedActive = 0 ∧ c.speedFade = none) ∧
  c.holder.isSome = c.state.isHeld ∧
  (c.followOn.isSome = true → c.state = .stopping ∨ c.state = .settling) ∧
  (c.stallTimer.isRunning = true → c.state.isDriven = true) ∧
  c.tripReason.isSome = decide (c.state = .tripped)

/-- A channel's own claim fits its state: WAITING or OPEN in CLAIMING, HELD in STARTING, NONE elsewhere (R40, R66, R69,
R72, R73). -/
def claimFits : MotionState → ClaimState → Bool
  | .claiming, .waiting | .claiming, .opened | .starting, .held => true
  | .idle, .none | .running, .none | .stopping, .none | .settling, .none | .tripped, .none => true
  | _, _ => false

/-- Every channel is lawful, and its claim fits it. -/
abbrev State.MotionLaw (s : State) : Prop :=
  ∀ m : MotIx, (s.mot m).Lawful ∧ claimFits (s.mot m).state (s.claim m).state = true

/-- An unconfigured motion channel is IDLE, and an unconfigured dimmer channel keeps its cold-start record (R77, R135). -/
abbrev State.SpareLaw (s : State) : Prop :=
  (∀ m : MotIx, (s.motCfg m).configured = false → (s.mot m).state = .idle) ∧
  (∀ d : DimIx, (s.dimCfg d).configured = false → s.dim d = .blank)

/-- The roles are resolved: a role that names a channel names a configured one, a single role is held by one input, and a
channel whose hold source is a local input has that input (R125). -/
abbrev State.RoleLaw (s : State) : Prop :=
  (∀ i : InIx, s.cfg.roles[i].channel.all (fun m => (s.motCfg m).configured) = true ∧
    (s.cfg.roles[i].single = true → s.cfg.roleInput s.cfg.roles[i] = some i)) ∧
  ∀ m : MotIx, (s.motCfg m).localHold = true → s.cfg.hasRole (.hold m) = true

/-- The input filters: while the node has its blocks the samples fall from a moment that is not ahead, every run count is in
its range, 0..3 for a PULSE input and 0..20 for any other, and a change that waits to be handed on has returned it to 0
(R124, R126, R127, R128). -/
abbrev State.FilterLaw (s : State) : Prop :=
  (s.built = true → s.firstSample.any (fun first => decide (first ≤ s.now)) = true) ∧
  ∀ i : InIx, (s.input i).runCount < acceptAt s.cfg.roles[i] ∧
    ((s.input i).accepted = true → s.built = true ∧ (s.input i).runCount = 0)

/-- No channel moves, no follow-on waits and no command is pending. -/
abbrev State.Still (s : State) : Prop :=
  (∀ m : MotIx, (s.mot m).state.isMoving = false ∧ (s.mot m).followOn = none) ∧ s.motionQueue = []

/-- The law of the latch: while it is set, nothing moves and nothing waits to (R172). -/
abbrev State.LatchLaw (s : State) : Prop := s.stopLatch = true → s.Still

/-- The modes: FAULT is on in SILENT only; outside LISTEN and READY nothing is queued to be sent and nothing published;
outside READY nothing moves (R8, R16, R17, R111, R174, R175, R178). -/
abbrev State.ModeLaw (s : State) : Prop :=
  s.faultOut = (s.mode == .silent) ∧ s.pub.active = s.active ∧
  (s.active = false → s.link.queue = [] ∧ s.link.slot = none ∧ s.link.slotNext = none) ∧
  (s.mode ≠ .ready → s.Still)

/-- The postures kept are the postures derived (R160, R161). -/
abbrev State.PostureLaw (s : State) : Prop := ∀ m : MotIx, (s.mot m).posture = s.derivePosture m

/-- The law of the interlock: while a direction output is on, every entry for that channel and direction holds with a
subject that is FRESH or LATE, or the own node (R170). -/
abbrev State.LockLaw (s : State) : Prop :=
  ∀ m : MotIx, (s.mot m).state.isEnergized = true → ∀ n : Fin 16,
    ((s.mot m).direction.any (fun d => s.cfg.locks[n].applies m d)) = true →
      s.lockHolds Freshness.runs s.cfg.locks[n] = true

/-- The pending queue: at most 8 entries, by level, no two of one origin and tag, each for a configured channel (R115). -/
abbrev State.QueueLaw (s : State) : Prop :=
  s.motionQueue.length ≤ Config.pendingSize ∧
  s.motionQueue.Pairwise (fun a b => a.cmd.level ≤ b.cmd.level) ∧
  s.motionQueue.Pairwise (fun a b => b.named a.cmd.origin a.cmd.tag = false) ∧
  ∀ e ∈ s.motionQueue, (s.motCfg e.channel).configured = true

/-! ## Link, peers and claims -/

/-- The frames of the node's own that are on the line. -/
def Link.onLineCount (l : Link) : Nat :=
  (l.queue.filter (fun f => f.onLine)).length + (if l.slot.any (fun f => f.onLine) then 1 else 0)

/-- The transmit queue: at most 8 frames in arbitration order, none of them a STATUS, each with fewer than 3 failed
attempts; at most one frame of the node's own on the line, and new contents of the slot off it; the count of transmit errors in
0..255 (R9, R11, R12, R13, R14). -/
abbrev State.LinkLaw (s : State) : Prop :=
  s.link.queue.length ≤ Config.txQueueSize ∧
  s.link.queue.Pairwise (fun a b => a.notWorse b = true) ∧
  (∀ f ∈ s.link.queue, f.failed < Config.maxFailed ∧ f.body.kind ≠ .status) ∧
  s.link.onLineCount ≤ 1 ∧
  s.link.slotNext.all (fun f => !f.onLine) = true ∧
  s.link.errors ≤ Config.maxErrors

/-- The entry at the own id, as cold start marks it (R19). -/
def PeerEntry.own : PeerEntry := { PeerEntry.blank with freshness := .self }

/-- The entry at the own id is SELF with its cold-start contents, and no other entry is SELF (R19). -/
abbrev State.SelfLaw (s : State) : Prop :=
  s.built = true → s.peer s.cfg.ownId = .own ∧ ∀ n : NodeId, n ≠ s.cfg.ownId → (s.peer n).freshness ≠ .self

/-- The foreign claim list: at most 16 entries, by expiry, no two of one claimant and tag, none of amount 0 (R60, R61). -/
abbrev State.ForeignLaw (s : State) : Prop :=
  s.foreign.length ≤ Config.foreignSize ∧
  s.foreign.Pairwise (fun a b => a.expiry ≤ b.expiry) ∧
  s.foreign.Pairwise (fun a b => b.named a.claimant a.tag = false) ∧
  ∀ e ∈ s.foreign, 0 < e.amount ∧ e.amount ≤ 10000

/-! ## Budget and dimmers -/

/-- A level is 0 or lies in MinOn..4095 (R79). -/
abbrev levelFits (cfg : DimCfg) (v : Nat) : Prop := v = 0 ∨ (cfg.minOn ≤ v ∧ v ≤ Config.fullLevel)

/-- A dimmer channel's configuration is in its ranges, its shed level 0 or at least MinOn (R56, R76, R176). -/
abbrev DimCfg.Ranged (cfg : DimCfg) : Prop :=
  1 ≤ cfg.rating ∧ cfg.rating ≤ 500 ∧ cfg.minOn ≤ Config.fullLevel ∧ levelFits cfg cfg.shedLevel ∧ cfg.shedClass ≤ 2 ∧
    cfg.startLevel ≤ Config.fullLevel

/-- A motion channel's configuration is in its ranges (Table 9-1, R135, R176). -/
abbrev MotCfg.Ranged (cfg : MotCfg) : Prop :=
  1 ≤ cfg.claimAmount ∧ cfg.claimAmount ≤ 10000 ∧ 1 ≤ cfg.claimHold ∧ cfg.claimHold ≤ 255 ∧
    1 ≤ cfg.inrushTrip ∧ cfg.inrushTrip ≤ 20000 ∧ 1 ≤ cfg.runTrip ∧ cfg.runTrip ≤ 20000 ∧
    1 ≤ cfg.scale ∧ cfg.scale ≤ 20000 ∧ 50 ≤ cfg.deadTime ∧ cfg.deadTime ≤ 2000 ∧
    (cfg.stallTime = 0 ∨ (200 ≤ cfg.stallTime ∧ cfg.stallTime ≤ 5000)) ∧
    cfg.fullSpeed ≤ Config.fullLevel ∧ cfg.slowSpeed ≤ Config.fullLevel ∧ cfg.rampUp ≤ 500 ∧ cfg.rampDown ≤ 500 ∧
    1 ≤ cfg.travel ∧ cfg.travel ≤ 8000000 ∧ cfg.stowBand ≤ cfg.travel ∧ cfg.deployBand ≤ cfg.travel ∧
    cfg.slowBand ≤ cfg.travel

/-- A dimmer channel: its applied level is 0 or in MinOn..4095 and stands in the output's waiting stage (R78, R79); its
fade has steps left, runs between levels that are 0 or in MinOn..4095 and has brought the applied level to its value, and its
target is within the shed level while the channel is capped (R80..R82, R89); its booked draw is that of R36. -/
abbrev DimmerCh.Lawful (cfg : DimCfg) (c : DimmerCh) : Prop :=
  levelFits cfg c.applied ∧ c.waiting = c.applied ∧
  (∀ f ∈ c.fade, levelFits cfg f.l0 ∧ levelFits cfg f.target ∧ f.taken < f.steps ∧
    c.applied = appliedFrom cfg.minOn (f.valueAt f.taken) ∧ (c.capped = true → f.target ≤ cfg.shedLevel)) ∧
  c.booked = dimmerDraw cfg.rating (match c.fade with | some f => max c.applied f.target | none => c.applied)

/-- Every dimmer channel is lawful, under a configuration in its ranges. -/
abbrev State.DimmerLaw (s : State) : Prop := ∀ d : DimIx, (s.dimCfg d).Ranged ∧ (s.dim d).Lawful (s.dimCfg d)

/-- Every segment's terms and headroom are those of the formulas, and each live own claim lies on its channel's segment
(R34, R39, R40, R42, R43, R66). -/
abbrev State.BudgetLaw (s : State) : Prop :=
  s.built = true → ∀ g : SegIx,
    (s.seg g).own = s.ownDraw g ∧ (s.seg g).reserve = s.ownReserve g ∧ (s.seg g).peerCharge = s.peerTotal g ∧
    (s.seg g).headroom = headroomOf (s.segCfg g).limit (s.ownDraw g) (s.ownReserve g) (s.peerTotal g)

/-- Each live own claim is that of its channel's configuration (R66). -/
abbrev State.ClaimLaw (s : State) : Prop :=
  ∀ m : MotIx, (s.claim m).state.isLive = true →
    (s.claim m).segment = (s.motCfg m).segment ∧ (s.claim m).amount = (s.motCfg m).claimAmount

/-- In the modes in which the shed state machine runs: a segment in NORMAL has no negative headroom, the deepen timer
runs in SHED-1 and below a headroom of 0 only, the recovery timer outside NORMAL and at a headroom of the margin or more
only (R52..R55, R59). -/
abbrev State.ShedLaw (s : State) : Prop :=
  s.active = true → ∀ g : SegIx,
    ((s.seg g).shed = .normal → 0 ≤ (s.seg g).headroom) ∧
    ((s.seg g).deepen.isRunning = true → (s.seg g).shed = .shed1 ∧ (s.seg g).headroom < 0) ∧
    ((s.seg g).recovery.isRunning = true → (s.seg g).shed ≠ .normal ∧ ((s.segCfg g).margin : Int) ≤ (s.seg g).headroom)

/-! ## Scenes -/

/-- The channels whose slot is tagged with a scene. -/
def State.taggedCount (s : State) (n : Nat) : Nat := (allDims.filter (fun d => (s.dim d).slot.any (fun x => x.scene == n))).length

/-- The assemblies and the preload slots are in step: at most 4 assemblies, one for a scene number; a slot tagged 1..255
has its assembly; the entries loaded of an assembly are the slots tagged with it; an unconfigured channel's slot is EMPTY
(R88, R94). -/
abbrev State.SceneLaw (s : State) : Prop :=
  s.scenes.length ≤ Config.sceneSize ∧ s.scenes.Pairwise (fun a b => a.scene ≠ b.scene) ∧
  (∀ a ∈ s.scenes, a.scene ≠ 0 ∧ a.loaded = s.taggedCount a.scene) ∧
  (∀ d : DimIx, ∀ x ∈ (s.dim d).slot, (s.dimCfg d).configured = true ∧ (x.scene ≠ 0 → ∃ a ∈ s.scenes, a.scene = x.scene))

/-! ## All of them -/

/-- A sound node: every law holds. -/
abbrev State.Sound (s : State) : Prop :=
  s.MotionLaw ∧ s.SpareLaw ∧ s.LatchLaw ∧ s.ModeLaw ∧ s.PostureLaw ∧ s.LockLaw ∧ s.QueueLaw ∧ s.LinkLaw ∧
    s.SelfLaw ∧ s.ForeignLaw ∧ s.DimmerLaw ∧ s.BudgetLaw ∧ s.ClaimLaw ∧ s.ShedLaw ∧ s.SceneLaw ∧ s.RoleLaw ∧ s.FilterLaw

/-! ## What statements about commands speak of -/

/-- The node receives a frame of this kind and delivers it to the block that owns the kind (R1, R6, R7, R8). -/
abbrev State.Hears (s : State) (k : Kind) (f : Frame) : Prop :=
  (s.active = true ∨ (k = .status ∧ s.mode = .silent ∧ s.link.clashed = true)) ∧ s.link.joined = true ∧
    frameSound f = true ∧ f.kind.toNat = k.code ∧ frameSource f ≠ s.cfg.ownId

/-- A COMMAND frame with this verb arrives for the own id (R106). -/
abbrev State.Commanded (s : State) (v : Verb) (f : Frame) : Prop :=
  s.Hears .command f ∧ cmdTarget f.payload = s.cfg.ownId ∧ verbOf (cmdKind f.payload) (cmdVerb f.payload) = some v

/-- It has as many arguments as its verb takes (R107, Table 13-3). -/
abbrev State.Ordered (s : State) (v : Verb) (f : Frame) : Prop :=
  s.Commanded v f ∧ (cmdArgs f.payload).length = v.argCount

/-- The rows of the opcode table for an arrived frame of a kind (Table 1-3). -/
def Kind.rows (k : Kind) (f : Frame) : List Instr :=
  match k with
  | .stop => [.stopArrival f]
  | .release => [.releaseArrival f]
  | .claim => [.claimArrival f]
  | .answer => [.answerArrival f]
  | .cue => [.cueArrival f]
  | .scene => [.sceneArrival f]
  | .status => [.statusArrival f]
  | .command => [.set f, .nudge f, .freeze f, .move f, .home f, .hold f, .halt f, .flag f, .cancel f, .restart f,
      .unknownVerbCommand f]

/-- The row of the opcode table for a COMMAND frame with this verb. -/
def Verb.row : Verb → Frame → Instr
  | .set => .set | .nudge => .nudge | .freeze => .freeze | .move => .move | .home => .home
  | .hold => .hold | .halt => .halt | .flag => .flag | .cancel => .cancel | .restart => .restart

/-- The DIMMER verbs (Table 13-3). -/
def Verb.isDimmer : Verb → Bool
  | .set | .nudge | .freeze => true
  | .move | .home | .hold | .halt | .flag | .cancel | .restart => false

/-- The MOTION verbs other than HOLD (Table 13-3, R107). -/
def Verb.namesMotion : Verb → Bool
  | .move | .home | .halt => true
  | .set | .nudge | .freeze | .hold | .flag | .cancel | .restart => false

/-- The ANSWER frames of one outcome: one at level 28 where the command wants an answer and its origin is another
station, otherwise none (R5, R120). -/
def State.answers (s : State) (origin : NodeId) (tag : Nat) (wanted : Bool) (o : Outcome) : List TxFrame :=
  if wanted && decide (origin ≠ s.cfg.ownId) then [⟨28, .answer origin tag o, 0, false⟩] else []

/-- The ANSWER frames of one outcome of a COMMAND frame. -/
def State.answersTo (s : State) (f : Frame) (o : Outcome) : List TxFrame :=
  s.answers (frameSource f) (cmdTag f.payload) (cmdWanted f.payload) o

/-- The ANSWER frames of one outcome of a motion command held by the node. -/
def State.answersFor (s : State) (c : MotionCmd) (o : Outcome) : List TxFrame := s.answers c.origin c.tag c.wanted o

/-- The transmit queue once these frames, oldest first, have taken their places in it: each after every queued frame that
it does not outrank (R9). -/
def TxFrame.queued (fs : List TxFrame) (q : List TxFrame) : List TxFrame :=
  fs.foldl (fun l f => l.takeWhile (fun x => x.notWorse f) ++ f :: l.dropWhile (fun x => x.notWorse f)) q

/-- The Link Controller with these frames queued beside what it held. -/
def Link.withQueued (l : Link) (fs : List TxFrame) : Link := { l with queue := TxFrame.queued fs l.queue }

/-- The transmit queue has room for so many frames (R9). -/
abbrev State.HasRoom (s : State) (n : Nat) : Prop := s.link.queue.length + n ≤ Config.txQueueSize

/-- No channel moves. -/
abbrev State.AtRest (s : State) : Prop := ∀ m : MotIx, (s.mot m).state.isMoving = false

/-- A MOVE or HOME binding in mode HOLD-TO-RUN (R123). -/
abbrev Binding.HoldsToRun (x : Binding) : Prop := x.kind = 1 ∧ (x.verb = 1 ∨ x.verb = 2) ∧ x.mode = .holdToRun

/-- The COMMAND frame that key binding b sends to another node with a verb and its arguments: the binding's level, tag
8 + b, target, channel kind and index (R122, Table 13-2). -/
def State.bindFrame (s : State) (b : BindIx) (verb : Nat) (wanted : Bool) (args : List Byte) : TxFrame :=
  ⟨(s.binding b).level,
    .command ([byteOf (s.binding b).target.val, byteOf (8 + b.val + if wanted then 16 else 0),
      byteOf ((s.binding b).index + 16 * (s.binding b).kind), byteOf verb] ++ args), 0, false⟩

/-- The current a channel's reading stands for: the reading brought into 0..1023, times the scale, over 1024 (R131,
R37). -/
def State.sampleOf (s : State) (readings : Vector Int 4) (m : MotIx) : Nat :=
  (max 0 (min 1023 readings[m])).toNat * (s.motCfg m).scale / 1024

/-- The sample reaches the trip current in force: Inrush Trip in STARTING, Run Trip in RUNNING and STOPPING (R132). -/
abbrev State.AtTrip (s : State) (readings : Vector Int 4) (m : MotIx) : Prop :=
  ((s.mot m).state = .starting ∧ (s.motCfg m).inrushTrip ≤ s.sampleOf readings m) ∨
    (((s.mot m).state = .running ∨ (s.mot m).state = .stopping) ∧ (s.motCfg m).runTrip ≤ s.sampleOf readings m)

/-- The publisher after an event that changed the node's values to these: where they are an early cause against the last
published ones, a composition at once when 20 ms or more have passed since the last, and the early mark otherwise (R28,
R30, R31). -/
def State.publisherAfter (s : State) (c : StatusContents) : Publisher :=
  if s.contents ≠ c ∧ s.pub.last.earlyCause c = true then
    if 20000 ≤ s.pub.spacing.value s.now then
      { seq := (s.pub.seq + 1) % 256, period := .running s.now, spacing := .running s.now, mark := false, last := c,
        active := s.pub.active }
    else { s.pub with mark := true }
  else s.pub

/-- An interlock entry on this subject that applies to the channel in its direction does not hold in the running
evaluation, as another state has the subjects (R168, R170). -/
abbrev State.StoppedBy (s t : State) (subject : NodeId) (m : MotIx) : Prop :=
  ∃ n : Fin 16, s.cfg.locks[n].subject = subject ∧
    (s.mot m).direction.any (fun d => s.cfg.locks[n].applies m d) = true ∧
    t.lockHolds Freshness.runs s.cfg.locks[n] = false

/-- A STOPPING channel whose speed fade takes its last step at the next tick (R147, R144). -/
abbrev State.StopsNow (s : State) (m : MotIx) : Prop :=
  (s.mot m).state = .stopping ∧ (s.mot m).speedFade.any (fun f => decide (f.steps ≤ f.taken + 1)) = true

/-- At a position a driven channel has reached its holder's target (R146). -/
abbrev State.Reaches (s : State) (m : MotIx) (p : Int) : Prop :=
  (s.mot m).state.isDriven = true ∧
    (s.mot m).holder.any (fun h => h.cmd.target.any (fun x =>
      decide (((s.mot m).direction = some .outward ∧ (x : Int) ≤ p) ∨ ((s.mot m).direction = some .inward ∧ p ≤ (x : Int))))) = true

/-- At a position a driven channel is inside its slow band, by Table 9-5 (R145). -/
abbrev State.InBandAt (s : State) (m : MotIx) (p : Int) : Prop :=
  (s.mot m).state.isDriven = true ∧
    (((s.mot m).direction = some .outward ∧
        (((s.mot m).holder.bind (fun h => h.cmd.target)).getD (s.motCfg m).travel : Int) - p ≤ (s.motCfg m).slowBand) ∨
      ((s.mot m).direction = some .inward ∧
        p - (((s.mot m).holder.bind (fun h => h.cmd.target)).getD 0 : Int) ≤ (s.motCfg m).slowBand))

/-- A channel as a change of its position leaves it that has not reached its target: one inside its slow band while its
chosen speed is Full Speed fades to Slow Speed over Ramp Down, and any other carries on (R145, R157). -/
def State.movedTo (s : State) (m : MotIx) (p : Int) (referenced : Bool) : MotionCh :=
  if (s.mot m).slow = false ∧ referenced = true ∧ s.InBandAt m p then
    { s.mot m with
      position := p, referenced := referenced, slow := true
      speedFade := some ⟨(s.mot m).speed, (s.motCfg m).slowSpeed, max 1 (s.motCfg m).rampDown, 0⟩ }
  else { s.mot m with position := p, referenced := referenced }

/-- A channel as a change of its position leaves it that has reached its target: in STOPPING, its speed fading to 0 over
Ramp Down (R146, R147). -/
def State.stoppedAt (s : State) (m : MotIx) (p : Int) (referenced : Bool) : MotionCh :=
  { s.movedTo m p referenced with
    state := .stopping, holder := none, stallTimer := .stopped 0
    speedFade := some ⟨(s.mot m).speed, 0, max 1 (s.motCfg m).rampDown, 0⟩ }

end Sys2Proof.Machine
end

