-- ==== Sys2Proof/Certificates/Slice0/Obligations.lean ====
section
/-! DEFINITION. The statements about the node, each after the rule or rules of the manual that its docstring names. Tests
have a witness for the hypotheses of each. -/

open Sys2Proof Sys2Proof.Machine

/-! ## The machine -/

/-- The block's step: the command at the front of the queue is carried out on the node with the rest of the queue. -/
def Obligations.StepRunsTheFrontCommand : Prop :=
  ∀ (c : Instr) (rest : List Instr) (s : State), s.pending = c :: rest → step s = exec c { s with pending := rest }

/-- With no command waiting, a step answers next. Where nothing has fallen due, time passes: 250 microseconds, or less where
something falls due before. The outputs take their waiting stages where a PWM period begins on the way, and an input takes a
sample where one falls on the way, every 250 microseconds (PULSE) or 1 ms (any other role) from the first samples: one equal to
the filtered state sets the run count to 0, a different one raises it by one, and where the raised count reaches 4 (PULSE) or 21
(any other role) the change is accepted, the run count returns to 0 and the change is due to be handed on (R126, R127, R128, R124,
R78). Where a timer or such a change has fallen due, a command of those that fell due first is put in the queue, and nothing else
changes but the count of choices. A command that brings the node to a later moment passes the time between in the same way: with
no change accepted before that moment only the clock and the samples go on, and a single one accepted before it is handed on at
its own moment. What the idle step does, the order of what falls due together, the phases of the PWM periods and of the samples,
and that an accepted change becomes the filtered state when it is handed on, are the model's choice: logs 2, 3, 4, 17, 31 and
34. -/
def Obligations.EmptyQueueIdles : Prop :=
  ∀ (s : State) (i : InIx) (first every accept y : Nat), s.pending = [] →
    every = (match s.cfg.roles[i] with | .pulse _ => 250 | _ => 1000) →
    accept = (match s.cfg.roles[i] with | .pulse _ => 4 | _ => 21) →
    ((∀ p ∈ s.dueCommands, s.now < p.1) →
      ∃ t, step s = .next t ∧ s.now < t.now ∧ t.now ≤ s.now + 250 ∧ (∀ p ∈ s.dueCommands, t.now ≤ p.1) ∧
        (t.now = s.now + 250 ∨ ∃ p ∈ s.dueCommands, p.1 = t.now) ∧
        t = { s with now := t.now, inputs := t.inputs, dims := t.dims, mots := t.mots } ∧
        (∀ d : DimIx, t.dim d =
          if s.now / 500 < t.now / 500 then { s.dim d with active := (s.dim d).waiting } else s.dim d) ∧
        (∀ m : MotIx, t.mot m =
          if s.now / 500 < t.now / 500 then { s.mot m with speedActive := (s.mot m).speedWaiting } else s.mot m) ∧
        (s.built = false → t.inputs = s.inputs) ∧
        (s.built = true → s.inputTimer = .running first → first ≤ s.now → (s.input i).runCount < accept →
          t.input i =
            if (s.now - first) / every < (t.now - first) / every then
              (if s.pins[i] = (s.input i).filtered then ⟨(s.input i).filtered, 0, false⟩
                else if (s.input i).runCount + 1 = accept then ⟨(s.input i).filtered, 0, true⟩
                else ⟨(s.input i).filtered, (s.input i).runCount + 1, false⟩)
            else s.input i)) ∧
    (s.built = true → s.inputTimer = .running first →
      ((s.input i).accepted = true → (s.now, .inputChangeAccepted i (!(s.input i).filtered)) ∈ s.dueCommands) ∧
      ((s.input i).accepted = false → (s.input i).runCount < accept → s.pins[i] ≠ (s.input i).filtered →
        s.acceptDue i = some (first + every * ((s.now - first) / every + (accept - (s.input i).runCount)))) ∧
      ((s.input i).accepted = false → s.pins[i] = (s.input i).filtered → s.acceptDue i = none)) ∧
    ((∃ p ∈ s.dueCommands, p.1 ≤ s.now) → ∃ t, step s = .next t ∧ t = { s with choices := t.choices, pending := t.pending } ∧
      (∃ p ∈ s.dueCommands, t.pending = [p.2] ∧ ∀ q ∈ s.dueCommands, p.1 ≤ q.1)) ∧
    (s.FilterLaw → (s.passTo y).now = max s.now y ∧
      ((∀ j : InIx, ∀ z ∈ s.acceptDue j, y ≤ z) → s.passTo y = s.clockTo y) ∧
      (∀ x ∈ s.acceptDue i, x < y → (∀ j : InIx, j ≠ i → ∀ z ∈ s.acceptDue j, x < z) →
        ∃ v, exec (.inputChangeAccepted i (!(s.input i).filtered)) (s.clockTo x) = .next v ∧ s.passTo y = v.passTo y))

/-- The state right after reset obeys every law of the node. -/
def Obligations.ResetIsSound : Prop := State.reset.Sound

/-! ## The laws of the node, kept by every step -/

/-- The laws of the motion channels: the direction outputs are on just as state and direction say and never both, a
channel that is not energized has its speed output at 0, a holder, a follow-on, a stall test and a trip reason stand only
where their rules put them, and each channel's claim fits its state (R137, R141, R147, R148, R154, R162, R165, R40, R73). -/
def Obligations.EveryStepKeepsTheMotionLaw : Prop :=
  ∀ (s t : State), s.Sound → step s = .next t → t.MotionLaw

/-- The law of the interlock: while a direction output is on, every entry for that channel and direction is satisfied by a
subject that is FRESH or LATE, or is the own node; and the postures kept are the postures derived (R170, R160, R161). -/
def Obligations.EveryStepKeepsTheInterlockLaw : Prop :=
  ∀ (s t : State), s.Sound → step s = .next t → t.LockLaw ∧ t.PostureLaw

/-- The laws of the latch and of the modes: while the stop latch is set, no channel moves, no follow-on waits and no command is
pending; FAULT is on in SILENT alone; outside LISTEN and READY no frame waits or is sent and nothing is published; outside
READY nothing moves or is pending (R172, R8, R16, R17, R119, R178). And the law of the input filters: while the node has its
blocks the samples fall from a moment that is not ahead, and every run count is in 0..3 for a PULSE input and in 0..20 for any
other (R124, R128); the mark of a change that waits to be handed on is the model's own (log 34). -/
def Obligations.EveryStepKeepsTheLatchAndModeLaws : Prop :=
  ∀ (s t : State), s.Sound → step s = .next t → t.LatchLaw ∧ t.ModeLaw ∧ t.FilterLaw

/-- The two queues: the pending queue keeps its size, its order by level and its one entry for an origin and tag (R115); the
transmit queue keeps its size and its arbitration order, holds no STATUS, and at most one frame of the node's own is on the
line, the new contents of the slot never (R9, R11, R12, R13, R14). -/
def Obligations.EveryStepKeepsTheQueueAndLinkLaws : Prop :=
  ∀ (s t : State), s.Sound → step s = .next t → t.QueueLaw ∧ t.LinkLaw

/-- The peer table's own entry stays SELF with its cold-start contents and is the only one; the foreign claim list keeps its
size, its order by expiry, one entry for a claimant and tag, and no amount of 0 (R19, R60, R61). -/
def Obligations.EveryStepKeepsThePeerAndClaimLists : Prop :=
  ∀ (s t : State), s.Sound → step s = .next t → t.SelfLaw ∧ t.ForeignLaw

/-- Every dimmer level is 0 or in MinOn..4095, a capped channel's fade target is within its shed level, and every booked draw is
that of its applied level or fade (R36, R79, R82, R89); an unconfigured channel stays off (R77, R135); the preload slots and
the assemblies are in step (R94); and the input roles stay resolved: a role that names a channel names a configured one, and a
single role is held by one input (R125). -/
def Obligations.EveryStepKeepsTheDimmerAndSceneLaws : Prop :=
  ∀ (s t : State), s.Sound → step s = .next t → t.DimmerLaw ∧ t.SpareLaw ∧ t.SceneLaw ∧ t.RoleLaw

/-- At every moment the held headroom is the value of the formula for the terms as they then stand, each live own claim is that
of its channel, a segment in NORMAL has no deficit, and the shed timers run only where R53 and R54 let them (R39, R40, R42,
R43, R66, R52). -/
def Obligations.EveryStepKeepsTheBudgetLaws : Prop :=
  ∀ (s t : State), s.Sound → step s = .next t → t.BudgetLaw ∧ t.ClaimLaw ∧ t.ShedLaw

/-! ## Start-up -/

/-- POWER_ON, RESET_LOW and RESET_HIGH put the node at the start of a cold start: LOADING, every output off, the line
neither listened to nor driven, no input sampled, no timer running (R174). The clock, the count of choices, the queue of
commands and the levels at the pins are the model's or the surroundings' (log 25). -/
def Obligations.ColdStartTurnsEverythingOff : Prop :=
  ∀ (s cold : State),
    cold = { State.reset with now := s.now, choices := s.choices, pins := s.pins, sense := s.sense, pending := s.pending } →
    exec .powerOn s = .next { cold with resetLow := s.resetLow } ∧
    exec .resetLow s = .next { cold with resetLow := true } ∧
    (s.resetLow = true → exec .resetHigh s = .next cold) ∧
    cold.mode = .loading ∧ cold.faultOut = false ∧ (∀ d, cold.dimmerDuty d = 0) ∧
    (∀ m, cold.speedDuty m = 0 ∧ (cold.mot m).outOn = false ∧ (cold.mot m).inOn = false) ∧
    cold.receives = false ∧ cold.active = false ∧ cold.lineBits = none ∧ cold.built = false ∧ cold.dueCommands = []

/-- IMAGE_READ_END with an image that fails its sum, its version or its id: SILENT, FAULT on, every output off, the line
neither listened to nor driven, and no block built (R175). -/
def Obligations.FailedImageSilencesTheNode : Prop :=
  ∀ (image : List Byte) (pins : Vector Bool 16) (sense : Vector Int 4) (s : State),
    s.mode = .loading → s.resetLow = false →
    (imageSum (imageBytes image) ≠ 0 ∨ byteAt (imageBytes image) 0 ≠ 1 ∨
      ¬ (1 ≤ byteAt (imageBytes image) 1 ∧ byteAt (imageBytes image) 1 ≤ 31)) →
    ∃ t, exec (.imageReadEnd image pins sense) s = .next t ∧ t.mode = .silent ∧ t.faultOut = true ∧
      (∀ d, t.dimmerDuty d = 0) ∧ (∀ m, t.speedDuty m = 0 ∧ (t.mot m).outOn = false ∧ (t.mot m).inOn = false) ∧
      t.receives = false ∧ t.active = false ∧ t.lineBits = none ∧ t.built = false ∧ t.dueCommands = [] ∧
      t.peers = State.reset.peers ∧ t.mots = State.reset.mots ∧ t.dims = State.reset.dims ∧ t.cfg = State.reset.cfg

/-- IMAGE_READ_END with a valid image: LISTEN, in one event. The configuration is the image's; each input takes its first
sample; each configured channel stands in SETTLING with its dead time started, and is referenced at once where it has a pulse
input and just one of its end contacts active; the stop latch follows the ESTOP input; the first STATUS, sequence 0 with the
LISTEN/READY bit clear, shows the node as it stands; the fade tick and the LISTEN timer start (R177, R19, R27, R33, R128,
R136, R159, R171). -/
def Obligations.ValidImageEntersListen : Prop :=
  ∀ (image : List Byte) (pins : Vector Bool 16) (sense : Vector Int 4) (s : State),
    s.mode = .loading → s.resetLow = false → imageSum (imageBytes image) = 0 → byteAt (imageBytes image) 0 = 1 →
    1 ≤ byteAt (imageBytes image) 1 → byteAt (imageBytes image) 1 ≤ 31 →
    ∃ t, exec (.imageReadEnd image pins sense) s = .next t ∧ t.mode = .listen ∧ t.faultOut = false ∧
      t.cfg = readConfig (imageBytes image) ∧ t.cfg.ownId.val = byteAt (imageBytes image) 1 ∧ t.now = s.now ∧
      t.listenTimer = .running s.now ∧ t.fadeTimer = .running s.now ∧ t.sampleTimer = .running s.now ∧
      t.inputTimer = .running s.now ∧
      (∀ i : InIx, t.input i = ⟨pins[i], 0, false⟩) ∧
      (∀ n : NodeId, t.peer n = if n = t.cfg.ownId then .own else .blank) ∧
      (∀ m : MotIx, (t.motCfg m).configured = true →
        (t.mot m).state = .settling ∧ (t.mot m).direction = none ∧ (t.mot m).holder = none ∧ (t.mot m).followOn = none ∧
        (t.mot m).speed = 0 ∧ (t.mot m).deadTimer = .running s.now) ∧
      (∀ m : MotIx, (t.motCfg m).configured = false → (t.mot m).state = .idle ∧ (t.mot m).posture = .absent) ∧
      (∀ m : MotIx, (t.mot m).posture = t.derivePosture m ∧ (t.claim m).state = .none ∧
        (t.mot m).referenced = (t.hasPulse m && (t.roleActive (.stowEnd m) != t.roleActive (.deployEnd m))) ∧
        (t.mot m).position =
          if t.hasPulse m && t.roleActive (.deployEnd m) && !t.roleActive (.stowEnd m) then ((t.motCfg m).travel : Int) else 0) ∧
      (∀ d : DimIx, (t.dim d).applied = 0 ∧ (t.dim d).fade = none ∧ (t.dim d).slot = none ∧ (t.dim d).booked = 0) ∧
      t.foreign = [] ∧ t.saturated = false ∧ t.scenes = [] ∧ t.partialCue = false ∧ t.motionQueue = [] ∧
      (∀ i : Fin 4, t.softFlags[i] = false) ∧ (∀ b : BindIx, (t.press b).pressed = false) ∧
      t.stopLatch = t.estopHeld ∧ t.rebroadcast = (if t.estopHeld then .running s.now else .stopped 0) ∧
      t.link.queue = (if t.estopHeld then [⟨0, .stop .estopInput, 0, false⟩] else []) ∧ t.link.errors = 0 ∧
      t.link.clashed = false ∧ t.link.joined = false ∧
      t.pub.active = true ∧ t.pub.seq = 0 ∧ t.pub.mark = false ∧ t.pub.period = .running s.now ∧ t.pub.last = t.contents ∧
      t.contents.bits.ready = false ∧ t.link.slot = some ⟨24, .status 0 t.contents, 0, false⟩

/-- Each field of a valid image is read at its offset in Tables 13-5 and 13-6 and brought to the nearest end of its range, and
the fields that depend on another against its clamped value (R176, R182). Roles are resolved at load: a role that names an
unconfigured channel becomes NONE; of the inputs that then name one single role the lowest-numbered keeps it and the others
become NONE; a hold source that no input holds becomes LINK (R125). -/
def Obligations.ImageFieldsAreClampedAndResolved : Prop :=
  ∀ (p : List Byte),
    (readConfig p).ownId = idField (byteAt p 1) ∧
    (∀ i : Fin 4, (readConfig p).safety[i] = if byteAt p (2 + i.val) ≤ 31 then idField (byteAt p (2 + i.val)) else 0) ∧
    (∀ g : SegIx, (readConfig p).segs[g] =
      { limit := max 1 (min 30000 (le16 p (6 + 6 * g.val)))
        margin := min 5000 (le16 p (8 + 6 * g.val))
        lostFloor := min 10000 (le16 p (10 + 6 * g.val)) }) ∧
    (∀ (d : DimIx) (o minOn shed : Nat), o = 30 + 9 * d.val → minOn = min 4095 (le16 p (o + 3)) →
      shed = min 4095 (le16 p (o + 5)) →
      (readConfig p).dims[d].Ranged ∧ (readConfig p).dims[d] =
        { configured := (byteAt p o).testBit 0
          segment := Fin.ofNat 4 (byteAt p o / 2)
          rating := max 1 (min 500 (le16 p (o + 1)))
          minOn := minOn
          shedClass := min 2 (byteAt p o / 8 % 4)
          shedLevel := if 1 ≤ shed ∧ shed ≤ minOn then minOn else shed
          cued := (byteAt p o).testBit 5
          startLevel := min 4095 (le16 p (o + 7)) }) ∧
    (∀ (m : MotIx) (o travel : Nat), o = 138 + 34 * m.val → travel = max 1 (min 8000000 (le24 p (o + 22))) →
      (readConfig p).mots[m].Ranged ∧ (readConfig p).mots[m] =
        { configured := (byteAt p o).testBit 0
          segment := Fin.ofNat 4 (byteAt p o / 2)
          claimAmount := max 1 (min 10000 (le16 p (o + 1)))
          claimHold := max 1 (byteAt p (o + 3))
          inrushTrip := max 1 (min 20000 (le16 p (o + 4)))
          runTrip := max 1 (min 20000 (le16 p (o + 6)))
          scale := max 1 (min 20000 (le16 p (o + 8)))
          deadTime := max 50 (min 2000 (le16 p (o + 10)))
          stallTime := if le16 p (o + 12) = 0 then 0 else max 200 (min 5000 (le16 p (o + 12)))
          fullSpeed := min 4095 (le16 p (o + 14))
          slowSpeed := min 4095 (le16 p (o + 16))
          rampUp := min 500 (le16 p (o + 18))
          rampDown := min 500 (le16 p (o + 20))
          travel := travel
          stowBand := min travel (le24 p (o + 25))
          deployBand := min travel (le24 p (o + 28))
          slowBand := min travel (le24 p (o + 31))
          localHold := (byteAt p o).testBit 3 && allInputs.any (fun i => (readConfig p).roles[i] == .hold m)
          siblingTrip := (byteAt p o).testBit 4
          edge := if byteAt p o / 32 % 4 = 0 then .rising else if byteAt p o / 32 % 4 = 1 then .falling else .both }) ∧
    (∀ (n : Fin 16) (o : Nat), o = 290 + 4 * n.val → (readConfig p).locks[n] =
      { channel := Fin.ofNat 4 (byteAt p o)
        onOut := decide (byteAt p o / 4 % 4 ≠ 2)
        onIn := decide (byteAt p o / 4 % 4 = 2 ∨ byteAt p o / 4 % 4 = 3)
        subject := idField (min 31 (byteAt p (o + 1)))
        test := if (byteAt p o).testBit 4 then .flag (min 19 (byteAt p (o + 2))) (decide (byteAt p (o + 3) ≠ 0))
          else .posture (Fin.ofNat 4 (byteAt p (o + 2))) (byteOf (byteAt p (o + 3))) }) ∧
    (∀ (b : BindIx) (o : Nat), o = 354 + 12 * b.val → (readConfig p).binds[b] =
      { input := Fin.ofNat 16 (byteAt p o)
        target := idField (min 31 (byteAt p (o + 1)))
        index := byteAt p (o + 2) % 16
        kind := byteAt p (o + 2) / 16 % 4
        verb := byteAt p (o + 3)
        level := min 31 (byteAt p (o + 4))
        mode := if (byteAt p (o + 5)).testBit 0 then .holdToRun else .latched
        wanted := (byteAt p (o + 5)).testBit 1
        args := [byteOf (byteAt p (o + 6)), byteOf (byteAt p (o + 7)), byteOf (byteAt p (o + 8)), byteOf (byteAt p (o + 9)),
          byteOf (byteAt p (o + 10)), byteOf (byteAt p (o + 11))] }) ∧
    (∀ (i : InIx) (m : MotIx), m = Fin.ofNat 4 (byteAt p (274 + i.val) / 16) → readRole p i =
      ([.none, .flag, .key, .stowEnd m, .deployEnd m, .pulse m, .hold m, .guard m, .estop] : List Role).getD
        (byteAt p (274 + i.val) % 16) .none) ∧
    (∀ i : InIx, (readConfig p).roles[i] =
      if (readRole p i).channel.any (fun m => !(readConfig p).mots[m].configured) then .none
      else if (readRole p i).single && allInputs.any (fun j => decide (j < i) && readRole p j == readRole p i) then .none
      else readRole p i)

/-- LISTEN_TIMER_EXPIRY: the LISTEN timer stops, the node enters READY, and each configured dimmer channel whose start level is
above 0 begins a fade of 200 steps from its applied level toward it, within cap, MinOn and raise clamp; the other channels stay
as they are (R178, R91). That a timer's command brings the clock to the moment it falls due is the model's choice (log 2). -/
def Obligations.ListenEndsInReady : Prop :=
  ∀ (s u : State) (since : Nat), s.Sound → s.mode = .listen → s.listenTimer = .running since →
    u = s.passTo (since + 1500000) →
    ∃ t, exec .listenTimerExpiry s = .next t ∧ t.mode = .ready ∧ t.listenTimer.isRunning = false ∧
      t = { u with mode := .ready, listenTimer := t.listenTimer, dims := t.dims, segs := t.segs, pub := t.pub, link := t.link } ∧
      t.link.queue = u.link.queue ∧
      (∀ d : DimIx, ((s.dimCfg d).configured = false ∨ (s.dimCfg d).startLevel = 0) → t.dim d = u.dim d) ∧
      (∀ d : DimIx, (s.dimCfg d).configured = true → 0 < (s.dimCfg d).startLevel →
        t.dim d = { u.dim d with fade := (t.dim d).fade, booked := (t.dim d).booked } ∧
        (t.dim d).fade.any (fun f =>
          decide (f.l0 = (u.dim d).applied ∧ f.steps = 200 ∧ f.taken = 0 ∧
            (f.target = u.wanted d (s.dimCfg d).startLevel ∨
              (f.l0 ≤ f.target ∧ f.target ≤ u.wanted d (s.dimCfg d).startLevel)))) = true)

/-! ## The Link Controller -/

/-- LINE_IDLE: the node joins the line, and where it has no frame on the line it contends with the better of the queue's head
and the slot's STATUS: lower level first, then lower kind code (R1, R12). That the idle that joins the node to the line is one
at which it may begin a frame is the model's choice (log 11); so is that an idle is taken as given while a frame of the
node's own is on the line (log 14). -/
def Obligations.LineIdleChoosesTheBetterFrame : Prop :=
  ∀ (s : State), s.built = true →
    (s.active = false ∨ s.link.busy = true → exec .lineIdle s = .next { s with link := { s.link with joined := true } }) ∧
    (s.active = true → s.link.busy = false →
      ∃ t, exec .lineIdle s = .next t ∧ t = { s with link := t.link } ∧
        t.link = (match s.link.queue, s.link.slot with
          | [], none => { s.link with joined := true }
          | h :: rest, none => { s.link with joined := true, queue := { h with onLine := true } :: rest }
          | [], some x => { s.link with joined := true, slot := some { x with onLine := true } }
          | h :: rest, some x =>
            if h.level < x.level ∨ (h.level = x.level ∧ h.body.kind.code ≤ x.body.kind.code) then
              { s.link with joined := true, queue := { h with onLine := true } :: rest }
            else { s.link with joined := true, slot := some { x with onLine := true } }))

/-- ARBITRATION_LOSS: the frame keeps its place in the queue or the slot and is off the line; no attempt and no error is counted.
That new contents composed meanwhile then take the slot is the model's reading (log 37) (R3, R11). -/
def Obligations.ArbitrationLossKeepsTheFrame : Prop :=
  ∀ (s : State), s.LinkLaw → s.link.busy = true →
    ∃ t, exec .arbitrationLoss s = .next t ∧ t = { s with link := t.link } ∧ t.link.busy = false ∧
      t.link.errors = s.link.errors ∧
      t.link.queue = s.link.queue.map (fun x => { x with onLine := false }) ∧
      t.link.slot = (match s.link.slot with
        | some x => if x.onLine then s.link.slotNext.or (some { x with onLine := false }) else some x
        | none => none) ∧
      (s.link.slot.any (fun x => x.onLine) = false → t.link.slotNext = s.link.slotNext)

/-- TRANSMIT_ERROR. On a queued frame a first or second failed attempt is counted and the frame keeps its place; a third drops
it, and the transmit-error count rises by one, to at most 255. On the slot's STATUS new contents composed meanwhile replace it;
otherwise it keeps its place until its third failed attempt drops it (R11, R13, R14). A dropped CLAIM is one fewer in flight.
Where it created a claim that is still OPEN, a claim that is not override yields, and its channel becomes IDLE; an override
one, like a HELD one, takes the moment of the drop as its send moment. The report of any other CLAIM does neither; and one that
leaves none in flight releases a claim that waits, which is offered and enters OPEN with its settle timer from 0 (R67, R68,
R74). -/
def Obligations.TransmitErrorCountsTheAttempt : Prop :=
  ∀ (s : State) (f : TxFrame) (m : MotIx) (g : SegIx) (amount hold : Nat), s.LinkLaw →
    (s.link.queue.find? (fun x => x.onLine) = some f → f.failed + 1 < 3 →
      exec .transmitError s = .next { s with link := { s.link with
        queue := s.link.queue.map (fun x => if x.onLine then { x with failed := x.failed + 1, onLine := false } else x) } }) ∧
    (s.link.queue.find? (fun x => x.onLine) = some f → f.failed + 1 = 3 → f.body.kind ≠ .claim →
      ∃ t, exec .transmitError s = .next t ∧ t = { s with link := t.link, pub := t.pub } ∧
        t.link.queue = s.link.queue.filter (fun x => !x.onLine) ∧ t.link.errors = min 255 (s.link.errors + 1)) ∧
    (s.link.slot = some f → f.onLine = true → f.body.kind = .status → f.failed + 1 < 3 →
      exec .transmitError s = .next { s with link := { s.link with
        slot := s.link.slotNext.or (some { f with failed := f.failed + 1, onLine := false }), slotNext := none } }) ∧
    (s.link.slot = some f → f.onLine = true → f.body.kind = .status → 3 ≤ f.failed + 1 →
      ∃ t, exec .transmitError s = .next t ∧ t = { s with link := t.link, pub := t.pub } ∧
        t.link.queue = s.link.queue ∧ t.link.errors = min 255 (s.link.errors + 1) ∧
        (t.pub.seq = s.pub.seq → t.link.slot = s.link.slotNext ∧ t.link.slotNext = none)) ∧
    (s.Sound → s.link.queue.find? (fun x => x.onLine) = some f →
      f.failed + 1 = 3 → f.body = .claim m g amount hold →
      (amount ≠ 0 → (s.claim m).sendMoment = none → (s.claim m).state = .opened → (s.claim m).override = false →
        (∀ e ∈ s.motionQueue, e.channel ≠ m) → s.postureNamed m = false →
        ∃ t, exec .transmitError s = .next t ∧
          t = { s with mots := t.mots, claims := t.claims, segs := t.segs, dims := t.dims, pub := t.pub, link := t.link } ∧
          t.mots = s.mots.set m { s.mot m with
            state := .idle, holder := none, deadTimer := (t.mot m).deadTimer, posture := t.derivePosture m } ∧
          t.claims = s.claims.set m { s.claim m with
            state := .none, settle := (t.claim m).settle, inFlight := (s.claim m).inFlight - 1 + 1 } ∧
          t.link.errors = min 255 (s.link.errors + 1) ∧
          t.link.queue = TxFrame.queued [⟨(s.claim m).level, .claim m (s.claim m).segment 0 (s.claim m).hold, 0, false⟩]
            (s.link.queue.filter (fun x => !x.onLine))) ∧
      (amount ≠ 0 → (s.claim m).sendMoment = none →
        (s.claim m).state = .held ∨ ((s.claim m).state = .opened ∧ (s.claim m).override = true) →
        ∃ t, exec .transmitError s = .next t ∧ t = { s with claims := t.claims, pub := t.pub, link := t.link } ∧
          t.claims = s.claims.set m { s.claim m with inFlight := (s.claim m).inFlight - 1, sendMoment := some s.now } ∧
          t.link.errors = min 255 (s.link.errors + 1) ∧ t.link.queue = s.link.queue.filter (fun x => !x.onLine)) ∧
      (amount = 0 ∨ (s.claim m).state = .none ∨ (s.claim m).state = .waiting ∨ (s.claim m).sendMoment.isSome = true →
        (s.claim m).state ≠ .waiting ∨ (s.claim m).inFlight = 2 →
        ∃ t, exec .transmitError s = .next t ∧ t = { s with claims := t.claims, pub := t.pub, link := t.link } ∧
          t.claims = s.claims.set m { s.claim m with inFlight := (s.claim m).inFlight - 1 } ∧
          t.link.errors = min 255 (s.link.errors + 1) ∧ t.link.queue = s.link.queue.filter (fun x => !x.onLine)) ∧
      ((s.claim m).state = .waiting → (s.claim m).inFlight = 1 →
        ∃ t, exec .transmitError s = .next t ∧ t = { s with claims := t.claims, pub := t.pub, link := t.link } ∧
          t.claims = s.claims.set m { s.claim m with inFlight := 1, state := .opened, settle := .running s.now } ∧
          t.link.errors = min 255 (s.link.errors + 1) ∧
          t.link.queue = TxFrame.queued
            [⟨(s.claim m).level, .claim m (s.claim m).segment (s.claim m).amount (s.claim m).hold, 0, false⟩]
            (s.link.queue.filter (fun x => !x.onLine))))

/-- FRAME_SENT: the frame leaves the queue or the slot, whatever its failed attempts, and the transmit-error count does not
change; new contents composed meanwhile take the slot. Of a CLAIM frame one fewer is in flight; the CLAIM that created a claim
still OPEN or HELD sets its send moment; the report of any other, a withdrawal's or that of a claim since ended or ended and
made again, changes nothing else, but the last frame in flight releases a claim that waits, which is offered and enters OPEN
with its settle timer from 0 (R13, R11, R14, R67, R68). -/
def Obligations.FrameSentLeavesItsPlace : Prop :=
  ∀ (s : State) (f : TxFrame) (m : MotIx) (g : SegIx) (amount hold : Nat), s.LinkLaw →
    (s.link.queue.find? (fun x => x.onLine) = some f → f.body.kind ≠ .claim →
      exec .frameSent s = .next { s with link := { s.link with queue := s.link.queue.filter (fun x => !x.onLine) } }) ∧
    (s.link.slot = some f → f.onLine = true → f.body.kind = .status →
      exec .frameSent s = .next { s with link := { s.link with slot := s.link.slotNext, slotNext := none } }) ∧
    (s.link.queue.find? (fun x => x.onLine) = some f → f.body = .claim m g amount hold → (s.claim m).inFlight ≤ 2 →
      (amount ≠ 0 → (s.claim m).state = .opened ∨ (s.claim m).state = .held → (s.claim m).sendMoment = none →
        exec .frameSent s = .next { s with
          link := { s.link with queue := s.link.queue.filter (fun x => !x.onLine) }
          claims := s.claims.set m { s.claim m with inFlight := (s.claim m).inFlight - 1, sendMoment := some s.now } }) ∧
      (amount = 0 ∨ (s.claim m).state = .none ∨ (s.claim m).state = .waiting ∨ (s.claim m).sendMoment.isSome = true →
        (s.claim m).state ≠ .waiting ∨ (s.claim m).inFlight = 2 →
        exec .frameSent s = .next { s with
          link := { s.link with queue := s.link.queue.filter (fun x => !x.onLine) }
          claims := s.claims.set m { s.claim m with inFlight := (s.claim m).inFlight - 1 } }) ∧
      (s.active = true → (s.claim m).state = .waiting → (s.claim m).inFlight = 1 →
        exec .frameSent s = .next { s with
          link := { s.link with queue := TxFrame.queued [⟨(s.claim m).level, .claim m (s.claim m).segment (s.claim m).amount (s.claim m).hold, 0, false⟩] (s.link.queue.filter (fun x => !x.onLine)) }
          claims := s.claims.set m { s.claim m with inFlight := 1, state := .opened, settle := .running s.now } }))

/-- What an offer does to the transmit queue: with room the frame takes its place, after every queued frame of its level and
kind and before any it outranks; on a full queue the worse of the frame and of the worst queued frame that is off the line
is dropped, and the transmit-error count rises by one (R9, R10, R14). -/
def Obligations.OfferedFrameTakesItsPlace : Prop :=
  ∀ (s : State) (f w : TxFrame), s.active = true → s.LinkLaw →
    (s.link.queue.length < 8 → offerFrame f s = ({ s with link := s.link.withQueued [f] }, [])) ∧
    (s.link.queue.length = 8 → (s.link.queue.filter (fun x => !x.onLine)).getLast? = some w →
      (w.notWorse f = true →
        offerFrame f s = ({ s with link := { s.link with errors := min 255 (s.link.errors + 1) } }, [.report false f])) ∧
      (w.notWorse f = false →
        offerFrame f s =
          ({ s with link := { s.link with errors := min 255 (s.link.errors + 1), queue := TxFrame.queued [f] (s.link.queue.reverse.eraseP (fun x => !x.onLine)).reverse } },
            [.report false w])))

/-- Reception. A frame that fails the tests of R6, that arrives while the node does not receive, that carries another kind than
the row's, or, in SILENT after a clash, any frame but a STATUS, has no effect. A frame with the own id is an id clash: the
node enters SILENT with FAULT on, the transmit queue and the slot are emptied without reports or count, the publisher becomes
inactive, no command stays pending, every configured channel that is not TRIPPED trips CLASH, and every fade freezes at its
present level; a further clash has no effect (R6, R7, R8, R16, R17). That a frame of another kind than the row's has no effect is
the model's reading (log 10), and so is that an arrival with the own id is one the node did not send (log 13). -/
def Obligations.OwnIdFramesClashAndOthersPassTests : Prop :=
  ∀ (s : State) (k : Kind) (f : Frame), s.Sound → ∀ c ∈ k.rows f,
    (s.receives = false ∨ frameSound f = false ∨ f.kind.toNat ≠ k.code ∨
        (s.mode = .silent ∧ k ≠ .status ∧ frameSource f ≠ s.cfg.ownId) ∨ (frameSource f = s.cfg.ownId ∧ s.link.clashed = true) →
      exec c s = .next s) ∧
    (s.receives = true → frameSound f = true → f.kind.toNat = k.code → frameSource f = s.cfg.ownId → s.link.clashed = false →
      ∃ t, exec c s = .next t ∧ t.mode = .silent ∧ t.faultOut = true ∧ t.link.clashed = true ∧ t.link.queue = [] ∧
        t.link.slot = none ∧ t.link.slotNext = none ∧ t.link.errors = s.link.errors ∧ t.pub.active = false ∧ t.active = false ∧
        t.motionQueue = [] ∧ t.peers = s.peers ∧ t.stopLatch = s.stopLatch ∧ t.inputs = s.inputs ∧
        (∀ m : MotIx, (s.motCfg m).configured = true →
          (t.mot m).state = .tripped ∧ (t.mot m).outOn = false ∧ (t.mot m).inOn = false ∧ t.speedDuty m = 0 ∧
          (t.mot m).followOn = none ∧ (t.claim m).state = .none ∧
          (t.mot m).tripReason = (if (s.mot m).state = .tripped then (s.mot m).tripReason else some .clash)) ∧
        ∀ d : DimIx, t.dim d = { s.dim d with fade := none, booked := if (s.dim d).fade.isSome then s.drawAt d (s.dim d).applied else (s.dim d).booked })

/-! ## The Peer Table -/

/-- A duplicate STATUS changes nothing; any other updates its entry, whose freshness becomes FRESH and whose time restarts,
with a draw above 32767 stored as 32767 and a posture code above 7 as UNKNOWN, and no other entry (R20, Table 13-2); one that
shows E-stop held sets the stop latch (R24). A moving channel, CLAIMING included, of which an applicable interlock entry on that
peer does not hold then trips, its outputs off and its claim ended, with reason INTERLOCK where no other channel moves (R22,
R170). That is stated where the transmit queue has room for what four trips offer, or no other channel moves: an offer on a full
queue may drop the CLAIM of a channel still to be evaluated, which then yields first (R10, R68, R74; log 6). That it trips for
the interlock before the stop latch is the model's order (log 29). Where no entry fails and the E-stop bit is clear, no channel
is touched. -/
def Obligations.AcceptedStatusUpdatesItsEntry : Prop :=
  ∀ (s : State) (f : Frame), s.Hears .status f →
    ((s.peer (frameSource f)).freshness ≠ .absent ∧ (s.peer (frameSource f)).seq = some (byteAt f.payload 0) →
      exec (.statusArrival f) s = .next s) ∧
    (¬ ((s.peer (frameSource f)).freshness ≠ .absent ∧ (s.peer (frameSource f)).seq = some (byteAt f.payload 0)) →
      ∃ t, exec (.statusArrival f) s = .next t ∧ t.now = s.now ∧ t.foreign = s.foreign ∧ t.mode = s.mode ∧
        (∀ k : NodeId, k ≠ frameSource f → t.peer k = s.peer k) ∧
        (t.peer (frameSource f)).freshness = .fresh ∧ (t.peer (frameSource f)).seq = some (byteAt f.payload 0) ∧
        (t.peer (frameSource f)).since = .running s.now ∧
        (t.peer (frameSource f)).contents.bits =
          ⟨(byteAt f.payload 1).testBit 0, (byteAt f.payload 1).testBit 1, (byteAt f.payload 1).testBit 2,
            (byteAt f.payload 1).testBit 3, (byteAt f.payload 1).testBit 4, (byteAt f.payload 1).testBit 5⟩ ∧
        (∀ g : SegIx, (t.peer (frameSource f)).contents.draws[g] = min 32767 (le16 f.payload (2 + 2 * g.val))) ∧
        (∀ m : MotIx, (t.peer (frameSource f)).contents.postures[m].code =
          if 7 < le16 f.payload 10 / 16 ^ m.val % 16 then 0 else le16 f.payload 10 / 16 ^ m.val % 16) ∧
        (∀ i : Fin 20, (t.peer (frameSource f)).contents.flags.getLsbD i.val = (le24 f.payload 12).testBit i.val) ∧
        ((byteAt f.payload 1).testBit 2 = true → t.stopLatch = true) ∧
        (∀ m : MotIx, (s.mot m).state.isMoving = true → s.StoppedBy t (frameSource f) m →
          (s.MotionLaw ∧ s.HasRoom 4) ∨ (∀ k : MotIx, k ≠ m → (s.mot k).state.isMoving = false) →
          (t.mot m).state = .tripped ∧ (t.mot m).outOn = false ∧ (t.mot m).inOn = false ∧ (t.mot m).holder = none ∧
          (t.mot m).followOn = none ∧ (t.claim m).state = .none ∧
          ((∀ k : MotIx, k ≠ m → (s.mot k).state.isMoving = false) → (t.mot m).tripReason = some .interlock)) ∧
        ((∀ m : MotIx, (s.mot m).state.isMoving = true → ¬ s.StoppedBy t (frameSource f) m) → (byteAt f.payload 1).testBit 2 = false →
          t = { s with peers := t.peers, segs := t.segs, dims := t.dims, pub := t.pub, link := t.link } ∧
          t.link = { s.link with slot := t.link.slot, slotNext := t.link.slotNext }))

/-- PEER_LATE and PEER_LOST: a FRESH entry goes LATE 600 ms after its last STATUS and a LATE one LOST at 1500 ms, where its time
stops; it keeps its values, and no other entry changes (R21). A moving channel of which an applicable interlock entry on that
peer does not hold then trips, its outputs off and its claim ended, with reason INTERLOCK where no other channel moves; with the
peer LOST no entry on it holds (R23, R170). The trip is stated where the transmit queue has room for what four trips offer, or no
other channel moves: an offer on a full queue may drop the CLAIM of a channel still to be evaluated, which then yields first
(R10, R68, R74; log 6). Where no entry fails, no channel is touched. That a timer's command brings the clock to the moment it
falls due is the model's choice (log 2). -/
def Obligations.SilentPeerGoesLateThenLost : Prop :=
  ∀ (s u : State) (c : Instr) (n : NodeId) (since : Nat) (e : PeerEntry), (s.peer n).since = .running since →
    ((c = .peerLate n ∧ (s.peer n).freshness = .fresh ∧ u = s.passTo (since + 600000) ∧
        e = { s.peer n with freshness := .late }) ∨
      (c = .peerLost n ∧ (s.peer n).freshness = .late ∧ u = s.passTo (since + 1500000) ∧
        e = { s.peer n with freshness := .lost, since := .stopped 1500000 })) →
    ∃ t, exec c s = .next t ∧ t.peers = s.peers.set n e ∧ t.now = u.now ∧
      (∀ m : MotIx, (u.mot m).state.isMoving = true → u.StoppedBy t n m →
        (u.MotionLaw ∧ u.HasRoom 4) ∨ (∀ k : MotIx, k ≠ m → (u.mot k).state.isMoving = false) →
        (t.mot m).state = .tripped ∧ (t.mot m).outOn = false ∧ (t.mot m).inOn = false ∧ (t.mot m).holder = none ∧
        (t.mot m).followOn = none ∧ (t.claim m).state = .none ∧
        ((∀ k : MotIx, k ≠ m → (u.mot k).state.isMoving = false) → (t.mot m).tripReason = some .interlock)) ∧
      (c = .peerLost n → n ≠ s.cfg.ownId → ∀ m : MotIx, ∀ l : Fin 16, s.cfg.locks[l].subject = n →
        (u.mot m).direction.any (fun d => s.cfg.locks[l].applies m d) = true → u.StoppedBy t n m) ∧
      ((∀ m : MotIx, (u.mot m).state.isMoving = true → ¬ u.StoppedBy t n m) →
        t = { u with peers := t.peers, segs := t.segs, dims := t.dims, pub := t.pub, link := t.link } ∧
        t.link = { u.link with slot := t.link.slot, slotNext := t.link.slotNext })

/-- Compositions: PERIOD_TIMER_EXPIRY while the publisher is active, and SPACING_TIME_EXPIRY while the early mark is set, compose a
STATUS: the sequence advances modulo 256, the values as they stand become the last published ones, the mark clears, both times
restart, and the frame at level 24 takes the slot, or waits behind a STATUS on the line. Where an input change before that
moment has already composed one, or the mark is clear, the time has no event (R28, R29, R31, R11). That a timer's command brings
the clock to the moment it falls due is the model's choice (log 2). -/
def Obligations.TimersComposeStatus : Prop :=
  ∀ (s u : State) (c : Instr) (since : Nat), s.pub.active = true →
    (s.pub.mark = false → exec .spacingTimeExpiry s = .next s) ∧
    (((c = .periodTimerExpiry ∧ s.pub.period = .running since ∧ u = s.passTo (since + 250000)) ∨
      (c = .spacingTimeExpiry ∧ s.pub.mark = true ∧ s.pub.spacing = .running since ∧ u = s.passTo (since + 20000))) →
    (u.pub.active = true → (c = .periodTimerExpiry → u.pub.period = .running since) →
      (c = .spacingTimeExpiry → u.pub.mark = true ∧ u.pub.spacing = .running since) →
      ∃ t, exec c s = .next t ∧ t = { u with pub := t.pub, link := t.link } ∧ t.contents = u.contents ∧
        t.pub = { seq := (u.pub.seq + 1) % 256, period := .running u.now, spacing := .running u.now, mark := false,
                  last := u.contents, active := true } ∧
        t.link = (if u.link.slot.any (fun x => x.onLine) then
            { u.link with slotNext := some ⟨24, .status ((u.pub.seq + 1) % 256) u.contents, 0, false⟩ }
          else { u.link with slot := some ⟨24, .status ((u.pub.seq + 1) % 256) u.contents, 0, false⟩ })) ∧
    (c = .periodTimerExpiry → u.pub.period ≠ .running since → exec c s = .next u) ∧
    (c = .spacingTimeExpiry → u.pub.mark = false ∨ u.pub.spacing ≠ .running since → exec c s = .next u))

/-! ## Claims -/

/-- A nonzero CLAIM is stored at its place in expiry order: a claim of the same claimant and tag is replaced, and a hold of 0
counts as 1 and an amount above 10000 as 10000. With 16 others stored it is not: the list is then SATURATED, and nothing
else changes (R61, R64). -/
def Obligations.NonzeroClaimIsStored : Prop :=
  ∀ (s : State) (f : Frame) (e : ForeignClaim) (others : List ForeignClaim), s.ForeignLaw → s.Hears .claim f →
    le16 f.payload 1 ≠ 0 →
    e = { claimant := frameSource f, tag := byteAt f.payload 0 % 8, segment := Fin.ofNat 4 (byteAt f.payload 0 / 8),
          amount := min 10000 (le16 f.payload 1), level := f.level.toNat,
          expiry := s.now + 10000 * max 1 (byteAt f.payload 3) } →
    others = s.foreign.filter (fun x => !x.named e.claimant e.tag) →
    (others.length < 16 →
      ∃ t, exec (.claimArrival f) s = .next t ∧ t.saturated = s.saturated ∧ t.peers = s.peers ∧ t.mode = s.mode ∧
        t.foreign = others.takeWhile (fun x => decide (x.expiry ≤ e.expiry)) ++ e ::
          others.dropWhile (fun x => decide (x.expiry ≤ e.expiry)) ∧
        ((∀ m : MotIx, (s.claim m).state = .none ∨ (s.claim m).state = .held) →
          t = { s with foreign := t.foreign, segs := t.segs, dims := t.dims, pub := t.pub, link := t.link } ∧
          t.link = { s.link with slot := t.link.slot, slotNext := t.link.slotNext })) ∧
    (others.length = 16 → exec (.claimArrival f) s = .next { s with saturated := true })

/-- Two ways a stored claim leaves. A zero CLAIM withdraws its claimant's entry with its tag, without contention; with no such entry
it has no effect. At its expiry an entry leaves too. Either way saturation ends and no own claim changes; the charge of each
segment is that of the claims left, so that of a FRESH or LATE claimant falls by the entry's amount on its segment, and each
headroom is the limit less own draw, reserve and charge (R62, R63, R64, R41, R42, R43). That a timer's command brings the clock
to the moment it falls due is the model's choice (log 2). -/
def Obligations.ClaimsLeaveWithdrawnOrExpired : Prop :=
  ∀ (s u : State) (f : Frame) (n : NodeId) (tag : Nat) (e : ForeignClaim) (c : Instr), s.Sound → s.built = true →
    (s.Hears .claim f → le16 f.payload 1 = 0 → (∀ x ∈ s.foreign, x.named (frameSource f) (byteAt f.payload 0 % 8) = false) →
      exec (.claimArrival f) s = .next s) ∧
    (e ∈ s.foreign → e.named n tag = true → tag < 8 →
      (c = .claimArrival f ∧ s.Hears .claim f ∧ le16 f.payload 1 = 0 ∧ n = frameSource f ∧ tag = byteAt f.payload 0 % 8 ∧ u = s) ∨
        (c = .foreignClaimExpiry n (Fin.ofNat 8 tag) ∧ u = s.passTo e.expiry) →
      ∃ t, exec c s = .next t ∧ t.foreign = s.foreign.filter (fun x => !x.named n tag) ∧
        t = { u with foreign := t.foreign, saturated := false, segs := t.segs, dims := t.dims, pub := t.pub, link := t.link } ∧
        t.link = { u.link with slot := t.link.slot, slotNext := t.link.slotNext } ∧
        (∀ g : SegIx, (t.seg g).peerCharge = t.peerTotal g ∧ (t.seg g).own = t.ownDraw g ∧ (t.seg g).reserve = t.ownReserve g ∧
          (t.seg g).headroom = max (-32768) (min 32767
            (((s.segCfg g).limit : Int) - (t.seg g).own - (t.seg g).reserve - (t.seg g).peerCharge))) ∧
        ((s.peer n).freshness = .fresh ∨ (s.peer n).freshness = .late →
          ∀ g : SegIx, (t.seg g).peerCharge + (if g = e.segment then e.amount else 0) = (u.seg g).peerCharge))

/-- Contention: a stored CLAIM on the segment of the node's one claim that is WAITING or OPEN and not override. Where the
segment is then in deficit and the CLAIM's level, or at equal levels its claimant's id, is the lower, the own claim is
withdrawn, with its zero CLAIM where it was OPEN, and its channel becomes IDLE. Otherwise the claim and its channel stand
(R70, R71, R73, R74). -/
def Obligations.OutrankedClaimYields : Prop :=
  ∀ (s v : State) (f : Frame) (m : MotIx), s.Sound → s.Hears .claim f → le16 f.payload 1 ≠ 0 →
    s.hasRoomFor (frameSource f) (byteAt f.payload 0 % 8) = true →
    v = storeClaim (claimEntry f s.now) s →
    ((s.claim m).state = .waiting ∨ (s.claim m).state = .opened) → (s.claim m).override = false →
    (s.claim m).segment = claimSegment f.payload → (∀ k : MotIx, k ≠ m → (s.mot k).state.isMoving = false) →
    s.motionQueue = [] → s.HasRoom 1 →
    ((v.seg (s.claim m).segment).headroom < ((s.segCfg (s.claim m).segment).margin : Int) ∧
        (f.level.toNat < (s.claim m).level ∨ (f.level.toNat = (s.claim m).level ∧ frameSource f < s.cfg.ownId)) →
      ∃ t, exec (.claimArrival f) s = .next t ∧ (t.claim m).state = .none ∧
        (t.claim m).inFlight = (s.claim m).inFlight + (if (s.claim m).state = .opened then 1 else 0) ∧
        (t.mot m).state = .idle ∧ (t.mot m).holder = none ∧ (t.mot m).outOn = false ∧ (t.mot m).inOn = false ∧
        t.link.queue = (if (s.claim m).state = .opened then
          TxFrame.queued [⟨(s.claim m).level, .claim m (s.claim m).segment 0 (s.claim m).hold, 0, false⟩] s.link.queue
          else s.link.queue)) ∧
    (¬ ((v.seg (s.claim m).segment).headroom < ((s.segCfg (s.claim m).segment).margin : Int) ∧
        (f.level.toNat < (s.claim m).level ∨ (f.level.toNat = (s.claim m).level ∧ frameSource f < s.cfg.ownId))) →
      ∃ t, exec (.claimArrival f) s = .next t ∧ t.claims = s.claims ∧ t.mots = s.mots)

/-- SETTLE_END: an override claim passes, any other by the margin test; a claim that passes is HELD and its channel checked: an
interlock entry not holding with a FRESH subject, both end contacts active, the contact ahead active or the target reached stop
it. A claim that fails, or is stopped, is withdrawn with its zero CLAIM and its channel becomes IDLE, the output never having
come on. Otherwise the channel enters STARTING, its direction output on and its speed fading to the chosen speed over Ramp Up,
and, where the hold is already spent, passes into RUNNING with the claim ended (R72, R74, R142, R143, R69). A hold that ends at
this very moment counts as spent, which is the model's reading (log 21). Where an input change before the settle end has ended
the claim or made another, there is no settle end. That a timer's command brings the clock to the moment it falls due is the
model's choice (log 2). -/
def Obligations.SettleEndDecides : Prop :=
  ∀ (s u : State) (m : MotIx) (since : Nat), s.Sound → (s.claim m).state = .opened → (s.claim m).settle = .running since →
    u = s.passTo (since + 40000) →
    ((u.claim m).state ≠ .opened ∨ (u.claim m).settle ≠ .running since → exec (.settleEnd m) s = .next u) ∧
    ((u.claim m).state = .opened → (u.claim m).settle = .running since →
      (∀ k : MotIx, k ≠ m → (u.mot k).state.isMoving = false) → u.motionQueue = [] → u.HasRoom 1 →
      ((((u.claim m).override = false ∧
            ((u.seg (u.claim m).segment).headroom < ((s.segCfg (u.claim m).segment).margin : Int) ∨ u.saturated = true)) ∨
          u.settleChecksStop m = true) →
        ∃ t, exec (.settleEnd m) s = .next t ∧ (t.claim m).state = .none ∧
          (t.claim m).inFlight = (u.claim m).inFlight + 1 ∧ (t.mot m).state = .idle ∧ (t.mot m).holder = none ∧
          (t.mot m).outOn = false ∧ (t.mot m).inOn = false ∧ (∀ k : MotIx, k ≠ m → t.mot k = u.mot k) ∧
          t.link.queue =
            TxFrame.queued [⟨(u.claim m).level, .claim m (u.claim m).segment 0 (u.claim m).hold, 0, false⟩] u.link.queue) ∧
      (¬ (((u.claim m).override = false ∧
            ((u.seg (u.claim m).segment).headroom < ((s.segCfg (u.claim m).segment).margin : Int) ∨ u.saturated = true)) ∨
          u.settleChecksStop m = true) →
        ∃ t, exec (.settleEnd m) s = .next t ∧
          t = { u with mots := t.mots, claims := t.claims, segs := t.segs, dims := t.dims, pub := t.pub, link := t.link } ∧
          t.link.queue = u.link.queue ∧ (∀ k : MotIx, k ≠ m → t.mot k = u.mot k ∧ t.claim k = u.claim k) ∧
          t.claim m = { u.claim m with
            settle := (t.claim m).settle
            state := if (u.claim m).sendMoment.any (fun x => decide (x + 10000 * (u.claim m).hold ≤ u.now)) then .none else .held } ∧
          t.mot m = { u.mot m with
            state := if (u.claim m).sendMoment.any (fun x => decide (x + 10000 * (u.claim m).hold ≤ u.now)) then .running
              else .starting
            outOn := (u.mot m).direction == some .outward
            inOn := (u.mot m).direction == some .inward
            slow := (u.mot m).holder.any (fun h => h.cmd.speed == .slow) || u.inSlowBand m
            stallTimer := if u.hasPulse m && decide (0 < (s.motCfg m).stallTime) then .running u.now else .stopped 0
            speedFade := some ⟨(u.mot m).speed,
              if (u.mot m).holder.any (fun h => h.cmd.speed == .slow) || u.inSlowBand m then (s.motCfg m).slowSpeed
                else (s.motCfg m).fullSpeed,
              max 1 (s.motCfg m).rampUp, 0⟩ }))

/-- CLAIM_HOLD_EXPIRY: a HELD claim's hold runs out when its hold time has passed since the send moment: the claim stops being live
and its channel passes from STARTING to RUNNING with its speed fade carried on. A claim that an input change has ended before
that moment has no hold to run out (R69, R143). That a timer's command brings the clock to the moment it falls due is the
model's choice (log 2). -/
def Obligations.ClaimHoldRunsOutIntoRunning : Prop :=
  ∀ (s u : State) (m : MotIx) (sent : Nat), u.MotionLaw → (s.claim m).state = .held → (s.claim m).sendMoment = some sent →
    u = s.passTo (sent + 10000 * (s.claim m).hold) →
    ((u.claim m).state ≠ .held → exec (.claimHoldExpiry m) s = .next u) ∧
    ((u.claim m).state = .held → (u.claim m).sendMoment = some sent → (u.claim m).hold = (s.claim m).hold →
      ∃ t, exec (.claimHoldExpiry m) s = .next t ∧
        t = { u with mots := t.mots, claims := t.claims, segs := t.segs, dims := t.dims, pub := t.pub, link := t.link } ∧
        t.link = { u.link with slot := t.link.slot, slotNext := t.link.slotNext } ∧
        (t.seg (u.claim m).segment).reserve = t.ownReserve (u.claim m).segment ∧
        t.claims = u.claims.set m { u.claim m with state := .none, settle := (t.claim m).settle } ∧
        t.mots = u.mots.set m { u.mot m with state := .running })

/-! ## Budget and shedding -/

/-- Two exact computations. The draw of a dimmer channel of rating C at level v: at least C v / 4095 and less than 1 dA above it,
in 0..C, 0 at level 0, C at 4095, and never falling as v rises (R35). The value of a fade: between its ends, its start at step
0 and its target at step N, with the quotient truncated, and above 0 until the last step of a fade toward 0 (R81). -/
def Obligations.DrawsAndFadeValuesAreExact : Prop :=
  ∀ (C v w : Nat) (f : Fade) (k : Nat),
    (C * v ≤ dimmerDraw C v * 4095 ∧ dimmerDraw C v * 4095 < C * v + 4095 ∧ (v ≤ 4095 → dimmerDraw C v ≤ C) ∧
      dimmerDraw C 0 = 0 ∧ dimmerDraw C 4095 = C ∧ (v ≤ w → dimmerDraw C v ≤ dimmerDraw C w)) ∧
    (1 ≤ f.steps → k ≤ f.steps →
      min f.l0 f.target ≤ f.valueAt k ∧ f.valueAt k ≤ max f.l0 f.target ∧ f.valueAt 0 = f.l0 ∧ f.valueAt f.steps = f.target ∧
      (f.target = 0 → 0 < f.l0 → k < f.steps → 0 < f.valueAt k) ∧
      (f.valueAt k : Int) = (f.l0 : Int) + (((f.target : Int) - (f.l0 : Int)) * (k : Int)).tdiv (f.steps : Int))

/-- The raise clamp on a target above the applied level. With the room X, the draw at the applied level plus the available
amount with the channel's booked draw counted as that draw (none in LISTEN or under saturation): a target whose draw fits X
stands; otherwise the result is the largest level whose draw fits, or the applied level where that would be a nonzero level
below MinOn, which happens only on a dark channel. The result is never below the applied level nor above the target (R48,
R49, R50). -/
def Obligations.RaiseClampFitsTheRoom : Prop :=
  ∀ (s : State) (d : DimIx) (T X T' : Nat), 1 ≤ (s.dimCfg d).rating → levelFits (s.dimCfg d) (s.dim d).applied →
    (s.dim d).applied < T → T ≤ 4095 →
    X = s.drawAt d (s.dim d).applied +
      (if s.mode = .listen ∨ s.saturated = true then 0 else
        ((s.seg (s.dimCfg d).segment).headroom - ((s.segCfg (s.dimCfg d).segment).margin : Int) +
          ((s.dim d).booked : Int) - (s.drawAt d (s.dim d).applied : Int)).toNat) →
    T' = X * 4095 / (s.dimCfg d).rating →
    (s.dim d).applied ≤ s.raiseClamp d T ∧ s.raiseClamp d T ≤ T ∧
    (s.drawAt d T ≤ X → s.raiseClamp d T = T) ∧
    (X < s.drawAt d T → T' < T ∧ s.drawAt d T' ≤ X ∧ X < s.drawAt d (T' + 1) ∧
      (0 < T' ∧ T' < (s.dimCfg d).minOn → (s.dim d).applied = 0 ∧ s.raiseClamp d T = 0) ∧
      (¬ (0 < T' ∧ T' < (s.dimCfg d).minOn) → s.raiseClamp d T = T'))

/-- The shed timers. 1000 ms after the deepen timer began the segment enters SHED-2, the timer stops at 0, every configured class-1
channel on it is capped, and those above their shed level begin fades of 100 steps toward it. 5000 ms after the recovery timer
began it steps back one state: from SHED-2 to SHED-1, with class 1 uncapped and the recovery timer restarted from 0; from SHED-1
to NORMAL, with class 2 uncapped and both timers at 0. An uncapped channel keeps its level and its fade (R53, R55, R56, R58,
R89, R90). A timer that an input change has stopped or restarted before that moment has no event. That a timer's command brings
the clock to the moment it falls due is the model's choice (log 2). -/
def Obligations.ShedTimersMoveTheSegment : Prop :=
  ∀ (s u : State) (g : SegIx) (since : Nat), s.Sound →
    ((s.seg g).shed = .shed1 → (s.seg g).deepen = .running since → u = s.passTo (since + 1000000) →
      ((u.seg g).shed ≠ .shed1 ∨ (u.seg g).deepen ≠ .running since → exec (.deepenTimerExpiry g) s = .next u) ∧
      ((u.seg g).shed = .shed1 → (u.seg g).deepen = .running since →
        ∃ t, exec (.deepenTimerExpiry g) s = .next t ∧
          t = { u with segs := t.segs, dims := t.dims, pub := t.pub, link := t.link } ∧
          (t.seg g).shed = .shed2 ∧ (t.seg g).deepen = .stopped 0 ∧ (∀ k : SegIx, k ≠ g → t.seg k = u.seg k) ∧
          (∀ d : DimIx, s.inClass g 1 d = false → t.dim d = u.dim d) ∧
          (∀ d : DimIx, s.inClass g 1 d = true →
            (t.dim d).capped = true ∧ (t.dim d).applied = (u.dim d).applied ∧ (t.dim d).slot = (u.dim d).slot ∧
            (u.aboveShed d = false → (t.dim d).fade = (u.dim d).fade) ∧
            (u.aboveShed d = true → (t.dim d).fade.any (fun f =>
              decide (f.l0 = (u.dim d).applied ∧ f.steps = 100 ∧ f.taken = 0 ∧ f.target ≤ (s.dimCfg d).shedLevel ∧
                ((s.dimCfg d).shedLevel ≤ (u.dim d).applied → f.target = (s.dimCfg d).shedLevel))) = true)))) ∧
    ((s.seg g).shed ≠ .normal → (s.seg g).recovery = .running since → u = s.passTo (since + 5000000) →
      ((u.seg g).shed = .normal ∨ (u.seg g).recovery ≠ .running since → exec (.recoveryTimerExpiry g) s = .next u) ∧
      ((u.seg g).shed = .shed2 → (u.seg g).recovery = .running since →
        ∃ t, exec (.recoveryTimerExpiry g) s = .next t ∧ t = { u with segs := t.segs, dims := t.dims } ∧
          t.segs = u.segs.set g { u.seg g with shed := .shed1, recovery := .running u.now } ∧
          (∀ d : DimIx, t.dim d = { u.dim d with capped := (u.dim d).capped && !s.inClass g 1 d })) ∧
      ((u.seg g).shed = .shed1 → (u.seg g).recovery = .running since →
        ∃ t, exec (.recoveryTimerExpiry g) s = .next t ∧ t = { u with segs := t.segs, dims := t.dims } ∧
          t.segs = u.segs.set g { u.seg g with shed := .normal, deepen := .stopped 0, recovery := .stopped 0 } ∧
          (∀ d : DimIx, t.dim d = { u.dim d with capped := (u.dim d).capped && !s.inClass g 2 d })))

/-! ## Dimmers -/

/-- SET and NUDGE on a configured IMMEDIATE channel: taken and answered TAKEN whatever runs, is loaded or caps it. A fade
begins from the present applied level, of max(1, F) steps with F at most 6000, and books the draw of its higher end; its
target is the level brought into range (for a NUDGE, the applied level plus the delta), limited to the shed level of a capped
channel, raised to MinOn, and, above the applied level, put to the raise clamp. No other channel changes (R80, R82, R83, R84,
R85). -/
def Obligations.SetAndNudgeBeginAFade : Prop :=
  ∀ (s : State) (f : Frame) (v : Verb) (d : DimIx) (q q2 Q T : Nat), s.Sound → v = .set ∨ v = .nudge → s.Ordered v f →
    cmdIndex f.payload = d.val → (s.dimCfg d).configured = true → (s.dimCfg d).cued = false → s.HasRoom 1 →
    q = (if v = .set then min 4095 (le16 (cmdArgs f.payload) 0)
      else (max 0 (min 4095 (((s.dim d).applied : Int) +
        max (-4095) (min 4095 (signed16 (le16 (cmdArgs f.payload) 0)))))).toNat) →
    q2 = (if (s.dim d).capped then min q (s.dimCfg d).shedLevel else q) →
    Q = (if 0 < q2 ∧ q2 < (s.dimCfg d).minOn then (s.dimCfg d).minOn else q2) →
    T = (if (s.dim d).applied < Q then s.raiseClamp d Q else Q) →
    ∃ t, exec (v.row f) s = .next t ∧
      t = { s with dims := t.dims, segs := t.segs, pub := t.pub, link := t.link } ∧
      t.link.queue = TxFrame.queued (s.answersTo f .taken) s.link.queue ∧
      t.dims = s.dims.set d { s.dim d with
        fade := some ⟨(s.dim d).applied, T, max 1 (min 6000 (le16 (cmdArgs f.payload) 2)), 0⟩
        booked := s.drawAt d (max (s.dim d).applied T) }

/-- SET and NUDGE on a configured CUED channel: the preload slot is loaded with scene 0, the level and the fade time, each in
its range; level, fade and booked draw stay. A numbered scene that the slot held loses one entry; its age timer runs on (R87,
R99). -/
def Obligations.CuedSetAndNudgePreload : Prop :=
  ∀ (s : State) (f : Frame) (v : Verb) (d : DimIx) (q : Nat), v = .set ∨ v = .nudge → s.Ordered v f →
    cmdIndex f.payload = d.val → (s.dimCfg d).configured = true → (s.dimCfg d).cued = true → s.HasRoom 1 → s.active = true →
    q = (if v = .set then min 4095 (le16 (cmdArgs f.payload) 0)
      else (max 0 (min 4095 (((s.dim d).applied : Int) +
        max (-4095) (min 4095 (signed16 (le16 (cmdArgs f.payload) 0)))))).toNat) →
    exec (v.row f) s = .next { s with
      dims := s.dims.set d { s.dim d with slot := some ⟨0, q, min 6000 (le16 (cmdArgs f.payload) 2)⟩ }
      scenes := s.scenes.map (fun a =>
        if (s.dim d).slot.any (fun x => decide (x.scene = a.scene ∧ x.scene ≠ 0)) then
          { a with loaded := a.loaded - 1, lost := a.lost + 1 } else a)
      link := s.link.withQueued (s.answersTo f .taken) }

/-- FREEZE ends a fade in progress at the present level and books that level's draw; on a capped channel above its shed level
the cap upkeep begins a fade of 100 steps to the shed level. With no fade in progress it changes nothing. It is answered
TAKEN and leaves the preload slot alone (R86, R89, R83). -/
def Obligations.FreezeEndsTheFade : Prop :=
  ∀ (s : State) (f : Frame) (d : DimIx), s.Sound → s.Ordered .freeze f → cmdIndex f.payload = d.val →
    (s.dimCfg d).configured = true → s.HasRoom 1 →
    ((s.dim d).fade = none →
      exec (.freeze f) s = .next { s with link := s.link.withQueued (s.answersTo f .taken) }) ∧
    ((s.dim d).fade.isSome = true →
      ∃ t, exec (.freeze f) s = .next t ∧ t = { s with dims := t.dims, segs := t.segs, pub := t.pub, link := t.link } ∧
        t.link.queue = TxFrame.queued (s.answersTo f .taken) s.link.queue ∧
        t.dims = s.dims.set d { s.dim d with
          fade := if (s.dim d).capped = true ∧ (s.dimCfg d).shedLevel < (s.dim d).applied then
              some ⟨(s.dim d).applied, (s.dimCfg d).shedLevel, 100, 0⟩ else none
          booked := s.drawAt d (s.dim d).applied })

/-- FADE_TICK, in LISTEN and READY: the next tick falls 10 ms after this one, and a STOPPING channel whose speed fade takes its
last step enters SETTLING, all three outputs off, its stall timer at 0 and its dead time from 0, its follow-on kept. Where no
interlock entry names the posture of such a channel, the tick is this and the steps alone: every dimmer fade takes one, in which
the level is written from the fade's value, MinOn below it, and goes to the waiting stage, and the booked draw follows; at the
last step the fade ends; every other speed fade steps with the same arithmetic, its value written directly (R79, R81, R144, R147,
R78). FADE_END, in LISTEN and READY: at its last step a channel stands at its target with that level's draw booked and no fade.
That FADE_END as a command of its own brings the clock to the tick of the last step and steps that channel alone, the fade tick
left as it was, is the model's reading (log 15), and so is that the next tick is counted from the due moment of this one (log
33). That a timer's command brings the clock to the moment it falls due is the model's choice (log 2). -/
def Obligations.FadesAdvanceAndEndAtTheirTargets : Prop :=
  ∀ (s u : State) (since : Nat) (k : DimIx) (g : Fade), s.Sound → s.active = true → s.fadeTimer = .running since →
    (u = s.passTo (since + 10000) →
      ∃ t, exec .fadeTick s = .next t ∧ t.fadeTimer = .running (since + 10000) ∧ t.now = u.now ∧
        (∀ m : MotIx, u.StopsNow m → t.mot m = { u.mot m with
          state := .settling, outOn := false, inOn := false, speed := 0, speedFade := none, speedWaiting := 0, speedActive := 0
          stallTimer := .stopped 0, deadTimer := .running u.now, posture := t.derivePosture m }) ∧
        ((∀ m : MotIx, u.StopsNow m → s.postureNamed m = false) →
          t = { u with fadeTimer := t.fadeTimer, dims := t.dims, segs := t.segs, mots := t.mots, pub := t.pub, link := t.link } ∧
          t.link.queue = u.link.queue ∧
          (∀ d : DimIx, t.dim d = (match (u.dim d).fade with
            | none => u.dim d
            | some f => { u.dim d with
                applied := if f.valueAt (f.taken + 1) = 0 then 0 else max (f.valueAt (f.taken + 1)) (s.dimCfg d).minOn
                waiting := if f.valueAt (f.taken + 1) = 0 then 0 else max (f.valueAt (f.taken + 1)) (s.dimCfg d).minOn
                fade := if f.taken + 1 = f.steps then none else some { f with taken := f.taken + 1 }
                booked := if f.taken + 1 = f.steps then s.drawAt d f.target else
                  s.drawAt d (max (if f.valueAt (f.taken + 1) = 0 then 0 else
                    max (f.valueAt (f.taken + 1)) (s.dimCfg d).minOn) f.target) })) ∧
          ∀ m : MotIx, ¬ u.StopsNow m → t.mot m = (match (u.mot m).speedFade with
            | none => u.mot m
            | some f => { u.mot m with
                speed := f.valueAt (f.taken + 1)
                speedWaiting := f.valueAt (f.taken + 1)
                speedFade := if f.steps ≤ f.taken + 1 then none else some { f with taken := f.taken + 1 } }))) ∧
    ((s.dim k).fade = some g → u = s.passTo (since + 10000 * (g.steps - g.taken)) →
      (∀ f ∈ (u.dim k).fade, f.steps - f.taken = g.steps - g.taken →
        ∃ t, exec (.fadeEnd k) s = .next t ∧ t = { u with dims := t.dims, segs := t.segs, pub := t.pub, link := t.link } ∧
          t.dims = u.dims.set k { u.dim k with
            applied := f.target, waiting := f.target, fade := none, booked := s.drawAt k f.target }) ∧
      ((u.dim k).fade.all (fun f => decide (f.steps - f.taken ≠ g.steps - g.taken)) = true → exec (.fadeEnd k) s = .next u))

/-! ## Scenes and cues -/

/-- SCENE_ARRIVAL: a frame for another id, with scene 0, or with a part index not below its part count is ignored. An accepted
part is recorded in the assembly of its scene, which stands with the part's count and an age timer from 0: its own; or a new
one at the newest place, after its own with another part count or, of four others, the oldest has been discarded. Each
configured channel named by an entry holds the last such entry in its slot; no level, fade or booked draw changes, and no slot
gains anything else. The assembly's entries loaded are the slots tagged with its scene, and its entries lost rise, at a part's
first reception, by the entries that name an index 12..15 or an unconfigured channel; every other assembly that stays loses, from
the one count to the other, each slot of its own that the part overwrites, and nothing else of it changes (R95, R96, R97, R98,
R100). -/
def Obligations.ScenePartLoadsItsSlots : Prop :=
  ∀ (s : State) (f : Frame) (n c p : Nat) (named : DimIx → Bool), s.Sound → s.Hears .scene f → n = byteAt f.payload 1 →
    p = byteAt f.payload 2 % 4 → c = byteAt f.payload 2 / 4 % 4 →
    (∀ d : DimIx, named d = ((s.dimCfg d).configured && (sceneEntries f.payload).any (fun e => decide (e.1 = d.val)))) →
    (idField (byteAt f.payload 0) ≠ s.cfg.ownId ∨ n = 0 ∨ c ≤ p → exec (.sceneArrival f) s = .next s) ∧
    (idField (byteAt f.payload 0) = s.cfg.ownId → n ≠ 0 → p < c →
      ∃ t, exec (.sceneArrival f) s = .next t ∧ t = { s with scenes := t.scenes, dims := t.dims } ∧
        t.scenes.map (fun a => a.scene) =
          (match s.assembly n with
            | some a => if a.parts = c then s.scenes.map (fun a => a.scene)
              else (s.scenes.map (fun a => a.scene)).filter (fun k => k ≠ n) ++ [n]
            | none => if s.scenes.length < 4 then s.scenes.map (fun a => a.scene) ++ [n]
              else (s.scenes.map (fun a => a.scene)).drop 1 ++ [n]) ∧
        (t.assembly n).any (fun a => decide (a.parts = c ∧ a.age = .running s.now ∧ a.loaded = t.taggedCount n ∧
          a.received = (match s.assembly n with
            | some b => if b.parts = c then b.received ||| (1#3 <<< p) else 1#3 <<< p
            | none => 1#3 <<< p) ∧
          a.lost = (match s.assembly n with
              | some b => if b.parts = c then b.lost else 0
              | none => 0) +
            (if (s.assembly n).any (fun b => decide (b.parts = c) && b.received.getLsbD p) then 0
              else ((sceneEntries f.payload).filter (fun e =>
                !((List.finRange 12).any (fun d => decide (d.val = e.1) && (s.dimCfg d).configured)))).length))) = true ∧
        (∀ b ∈ s.scenes, b.scene ≠ n → ∀ x ∈ t.assembly b.scene, x = { b with
          loaded := b.loaded - ((List.finRange 12).filter (fun d =>
            named d && (s.dim d).slot.any (fun y => decide (y.scene = b.scene)))).length
          lost := b.lost + ((List.finRange 12).filter (fun d =>
            named d && (s.dim d).slot.any (fun y => decide (y.scene = b.scene)))).length }) ∧
        (∀ d : DimIx, { t.dim d with slot := none } = { s.dim d with slot := none }) ∧
        ∀ d : DimIx, (s.dimCfg d).configured = true →
          (t.dim d).slot = (match ((sceneEntries f.payload).filter (fun e => decide (e.1 = d.val))).getLast? with
            | some e => some ⟨n, e.2, min 6000 (le16 f.payload 3)⟩
            | none => if (t.dim d).slot.isNone then none else (s.dim d).slot))

/-- CUE_ARRIVAL. For a scene 1..255 without an assembly nothing changes. Otherwise every slot tagged with the scene is applied
as a request and emptied, the assembly is removed, and the partial-cue flag is set, or cleared where every part had arrived and
no entry was lost; a cue for scene 0 applies every slot tagged 0 and touches no assembly and not the flag. The other channels
and slots stay as they are (R101, R102, R103). -/
def Obligations.CueAppliesItsSlots : Prop :=
  ∀ (s : State) (f : Frame) (n : Nat), s.Sound → s.Hears .cue f → n = byteAt f.payload 0 →
    (n ≠ 0 → s.assembly n = none → exec (.cueArrival f) s = .next s) ∧
    (n = 0 ∨ (s.assembly n).isSome = true →
      ∃ t, exec (.cueArrival f) s = .next t ∧
        t = { s with dims := t.dims, segs := t.segs, scenes := t.scenes, partialCue := t.partialCue, pub := t.pub, link := t.link } ∧
        t.link.queue = s.link.queue ∧ t.scenes = (if n = 0 then s.scenes else s.scenes.filter (fun a => a.scene ≠ n)) ∧
        t.partialCue = (if n = 0 then s.partialCue else (s.assembly n).any (fun a =>
          decide (a.lost ≠ 0) || (List.range a.parts).any (fun i => !a.received.getLsbD i))) ∧
        ∀ d : DimIx,
          ((s.dim d).slot.any (fun x => x.scene == n) = false → t.dim d = s.dim d) ∧
          ∀ x ∈ (s.dim d).slot, x.scene = n →
            t.dim d = { s.dim d with slot := none, fade := (t.dim d).fade, booked := (t.dim d).booked } ∧
            (t.dim d).fade.any (fun y => decide (y.l0 = (s.dim d).applied ∧ y.steps = max 1 (min 6000 x.fade) ∧ y.taken = 0 ∧
              (y.target = s.wanted d x.level ∨ (y.l0 ≤ y.target ∧ y.target ≤ s.wanted d x.level)))) = true)

/-- SCENE_AGE_TIMER_EXPIRY: 10000 ms after its last accepted part an assembly is discarded: the slots tagged with its scene become
EMPTY, it leaves the order, and levels, fades, booked draws and the partial-cue flag stay (R100). That a timer's command brings
the clock to the moment it falls due is the model's choice (log 2). -/
def Obligations.AgedSceneIsDiscarded : Prop :=
  ∀ (s u : State) (scene : Byte) (a b : Assembly) (since : Nat), s.SceneLaw → u.SceneLaw → s.assembly scene.toNat = some b →
    b.age = .running since → u = s.passTo (since + 10000000) →
    (u.assembly scene.toNat = some a → a.age = .running since →
      ∃ t, exec (.sceneAgeTimerExpiry scene) s = .next t ∧ t = { u with scenes := t.scenes, dims := t.dims } ∧
        t.scenes = u.scenes.filter (fun b => b.scene ≠ scene.toNat) ∧
        ∀ d : DimIx, t.dim d =
          if (u.dim d).slot.any (fun x => x.scene == scene.toNat) then { u.dim d with slot := none } else u.dim d) ∧
    ((u.assembly scene.toNat).all (fun x => decide (x.age ≠ .running since)) = true →
      exec (.sceneAgeTimerExpiry scene) s = .next u)

/-! ## Commands -/

/-- A command that Table 13-3 does not allow is refused BAD-ARGUMENT and changes nothing else: an unknown channel kind or verb,
another number of argument bytes than its verb takes, a channel index that is unconfigured or out of range, and a FLAG index
outside 16..19. A HOLD with arguments is ignored without an answer, and a COMMAND frame for another id has no effect (R107,
R106, R120). -/
def Obligations.BadCommandsAreRefused : Prop :=
  ∀ (s : State) (f : Frame) (v : Verb), s.HasRoom 1 →
    (s.Hears .command f → cmdTarget f.payload = s.cfg.ownId → verbOf (cmdKind f.payload) (cmdVerb f.payload) = none →
      exec (.unknownVerbCommand f) s = .next { s with link := s.link.withQueued (s.answersTo f (.refused .badArgument)) }) ∧
    (s.Commanded v f → v ≠ .hold →
      ((cmdArgs f.payload).length ≠ v.argCount ∨
        (v.isDimmer = true ∧ ∀ d : DimIx, d.val = cmdIndex f.payload → (s.dimCfg d).configured = false) ∨
        (v.namesMotion = true ∧ ∀ m : MotIx, m.val = cmdIndex f.payload → (s.motCfg m).configured = false) ∨
        (v = .flag ∧ ¬ (16 ≤ byteAt (cmdArgs f.payload) 0 ∧ byteAt (cmdArgs f.payload) 0 ≤ 19))) →
      exec (v.row f) s = .next { s with link := s.link.withQueued (s.answersTo f (.refused .badArgument)) }) ∧
    (s.Commanded .hold f → (cmdArgs f.payload).length ≠ 0 → exec (.hold f) s = .next s) ∧
    (s.Hears .command f → cmdTarget f.payload ≠ s.cfg.ownId → exec (v.row f) s = .next s ∧ exec (.unknownVerbCommand f) s = .next s)

/-- FLAG sets its soft flag to the value given and is answered TAKEN. While nothing moves, nothing else changes but what the
publisher makes of the change: an early cause against the last published values composes a STATUS at once when 20 ms or more
have passed since the last one, and sets the early mark otherwise (R108, R30, R31). -/
def Obligations.FlagSetsItsSoftFlag : Prop :=
  ∀ (s : State) (f : Frame) (i : Fin 4) (on : Bool), s.ModeLaw → s.Ordered .flag f → byteAt (cmdArgs f.payload) 0 = 16 + i.val →
    on = decide (byteAt (cmdArgs f.payload) 1 ≠ 0) → s.HasRoom 1 →
    ∃ t, exec (.flag f) s = .next t ∧ t.softFlags = s.softFlags.set i on ∧ t.contents.flags.getLsbD (16 + i.val) = on ∧
      (s.AtRest →
        t = { s with softFlags := t.softFlags, pub := t.pub, link := t.link } ∧
        t.link.queue = TxFrame.queued (s.answersTo f .taken) s.link.queue ∧
        t.pub = s.publisherAfter t.contents)

/-- CANCEL is answered TAKEN and removes the pending entry and every follow-on that has the sender as its origin and the named
tag, each answered CANCELLED: the pending entry first, then the follow-ons in index order. Nothing else changes (R109). -/
def Obligations.CancelRemovesHeldCommands : Prop :=
  ∀ (s : State) (f : Frame) (src : NodeId) (tag : Nat), s.QueueLaw → s.Ordered .cancel f → src = frameSource f →
    tag = byteAt (cmdArgs f.payload) 0 % 16 → s.HasRoom 6 →
    exec (.cancel f) s = .next { s with
      motionQueue := s.motionQueue.filter (fun e => !e.named src tag)
      mots := s.mots.map (fun c => if c.followOn.any (fun h => decide (h.cmd.origin = src ∧ h.cmd.tag = tag)) then { c with followOn := none } else c)
      link := s.link.withQueued (s.answersTo f .taken ++ (s.motionQueue.filter (fun e => e.named src tag)).flatMap (fun e => s.answersFor e.cmd .cancelled) ++ (s.mots.toList.filterMap (fun c => c.followOn)).flatMap (fun h => if h.cmd.origin = src ∧ h.cmd.tag = tag then s.answersFor h.cmd .cancelled else [])) }

/-- RESTART is refused NOT-PERMITTED unless its origin is a safety origin and its adjusted level at most 15, and otherwise
NOT-READY in LISTEN, with nothing else changed. In READY it empties the pending queue, the follow-ons, the scenes, the slots
and the presses, clears the soft flags and the partial-cue flag, ends every claim, takes every configured motion channel that
is not IDLE to SETTLING with its outputs off and its dead time from 0, and freezes every dimmer channel at its level; the
mode, the stop latch, positions, peers, foreign claims and inputs stay (R110, R155, R92, R119, R179). -/
def Obligations.RestartSettlesTheNode : Prop :=
  ∀ (s : State) (f : Frame), s.Sound → s.Ordered .restart f →
    (¬ (s.cfg.isSafety (frameSource f) = true ∧ s.cfg.adjust (frameSource f) f.level.toNat ≤ 15) → s.HasRoom 1 →
      exec (.restart f) s = .next { s with link := s.link.withQueued (s.answersTo f (.refused .notPermitted)) }) ∧
    (s.cfg.isSafety (frameSource f) = true ∧ s.cfg.adjust (frameSource f) f.level.toNat ≤ 15 → s.mode = .listen → s.HasRoom 1 →
      exec (.restart f) s = .next { s with link := s.link.withQueued (s.answersTo f (.refused .notReady)) }) ∧
    (s.cfg.isSafety (frameSource f) = true ∧ s.cfg.adjust (frameSource f) f.level.toNat ≤ 15 → s.mode = .ready →
      ∃ t, exec (.restart f) s = .next t ∧
        t = { s with mots := t.mots, claims := t.claims, dims := t.dims, segs := t.segs, motionQueue := [], scenes := [], partialCue := false, presses := t.presses, softFlags := t.softFlags, pub := t.pub, link := t.link } ∧
        (∀ m : MotIx, (t.claim m).state = .none ∧
          t.mot m = if (s.mot m).state = .idle then s.mot m else
            { s.mot m with
              state := .settling, holder := none, followOn := none, outOn := false, inOn := false, speed := 0
              speedFade := none, speedWaiting := 0, speedActive := 0, deadTimer := .running s.now
              stallTimer := .stopped 0, tripReason := none, posture := t.derivePosture m }) ∧
        (∀ d : DimIx, t.dim d = { s.dim d with
          slot := none
          fade := if (s.dim d).fade.isSome ∧ (s.dim d).capped = true ∧ (s.dimCfg d).shedLevel < (s.dim d).applied then
              some ⟨(s.dim d).applied, (s.dimCfg d).shedLevel, 100, 0⟩ else none
          booked := s.drawAt d (s.dim d).applied }) ∧
        (∀ i : Fin 4, t.softFlags[i] = false) ∧ ∀ b : BindIx, t.press b = ⟨false, none⟩)

/-! ## Motion -/

/-- The start check tests in the order of R139: stop latch, LISTEN, both end contacts, an unreferenced target, a HOME without
a stow contact, then, for the direction that results (none where the target is the position), the contact ahead, the hold
(the local input, or on a LINK channel the deadline a follow-on brings), the interlock table and, but for a command in the
override band, admission; a target at the position or an active contact ahead completes at once (R139, R140, R138). A deadline
at this very moment has passed: the model's reading (log 21). -/
def Obligations.StartCheckTestsInItsOrder : Prop :=
  ∀ (s : State) (m : MotIx) (c : MotionCmd) (d : Dir) (deadline : Option Nat),
    (s.stopLatch = true → s.startCheck m c deadline = .refused .stopped) ∧
    (s.stopLatch = false → s.mode = .listen → s.startCheck m c deadline = .refused .notReady) ∧
    (s.stopLatch = false → s.mode ≠ .listen →
      (s.roleActive (.stowEnd m) = true ∧ s.roleActive (.deployEnd m) = true → s.startCheck m c deadline = .refused .sensor) ∧
      (¬ (s.roleActive (.stowEnd m) = true ∧ s.roleActive (.deployEnd m) = true) →
        (c.target ≠ none ∧ (s.mot m).referenced = false → s.startCheck m c deadline = .refused .unreferenced) ∧
        (c.target = none ∨ (s.mot m).referenced = true →
          (c.verb = .home ∧ s.cfg.hasRole (.stowEnd m) = false → s.startCheck m c deadline = .refused .badArgument) ∧
          (¬ (c.verb = .home ∧ s.cfg.hasRole (.stowEnd m) = false) →
            (c.target.any (fun x => decide ((x : Int) = (s.mot m).position)) = true → s.startCheck m c deadline = .completes) ∧
            ((c.target = none ∧ d = c.dir) ∨ c.target.any (fun x => decide ((s.mot m).position < x ∧ d = .outward ∨ x < (s.mot m).position ∧ d = .inward)) = true →
              s.startCheck m c deadline =
                (if (d = .outward ∧ s.roleActive (.deployEnd m) = true) ∨ (d = .inward ∧ s.roleActive (.stowEnd m) = true) then .completes
                else if c.mode = .holdToRun ∧ (((s.motCfg m).localHold = true ∧ s.roleActive (.hold m) = false) ∨
                    ((s.motCfg m).localHold = false ∧ deadline.any (fun x => decide (x ≤ s.now)) = true)) then .refused .interlock
                else if ∃ n : Fin 16, s.cfg.locks[n].applies m d = true ∧ s.lockHolds Freshness.starts s.cfg.locks[n] = false then .refused .interlock
                else if ¬ (s.cfg.isSafety c.origin = true ∧ c.level ≤ 7) ∧ s.admits (s.motCfg m).segment (s.motCfg m).claimAmount = false then .refused .budget
                else .passes d))))))

/-- MOVE and HOME on an IDLE channel. A command whose start check passes becomes the holder; the channel enters CLAIMING in the
direction found, with its outputs as they were and a new claim, whose CLAIM frame is offered at once when none of its tag is
in flight, and TAKEN is answered. A command refused, or completed without motion, is answered and changes nothing else (R114,
R139, R140, R141, R66, R67). -/
def Obligations.MoveAndHomeStartAnIdleChannel : Prop :=
  ∀ (s : State) (f : Frame) (v : Verb) (m : MotIx) (c : MotionCmd) (d : Dir) (r : Reason), s.Sound → v = .move ∨ v = .home → s.Ordered v f →
    cmdIndex f.payload = m.val → (s.motCfg m).configured = true → s.mode = .ready → s.stopLatch = false →
    (s.mot m).state = .idle → s.pendingEntry (frameSource f) (cmdTag f.payload) = none →
    (∀ e ∈ s.motionQueue, e.channel ≠ m) → s.HasRoom 2 →
    c = (if v = .move then readMove (frameCmd s.cfg f) (s.motCfg m).travel else readHome (frameCmd s.cfg f)) →
    (s.startCheck m c none = .refused r →
      exec (v.row f) s = .next { s with link := s.link.withQueued (s.answersTo f (.refused r)) }) ∧
    (s.startCheck m c none = .completes →
      exec (v.row f) s = .next { s with link := s.link.withQueued (s.answersTo f .taken) }) ∧
    (s.startCheck m c none = .passes d → s.postureNamed m = false →
      ∃ t, exec (v.row f) s = .next t ∧
        t = { s with mots := t.mots, claims := t.claims, segs := t.segs, dims := t.dims, pub := t.pub, link := t.link } ∧
        t.mots = s.mots.set m { s.mot m with
          state := .claiming, direction := some d, deadTimer := (t.mot m).deadTimer
          holder := some ⟨c, if c.mode = .holdToRun ∧ (s.motCfg m).localHold = false then some (s.now + 350000) else none⟩
          posture := if d = .outward then .outbound else .inbound } ∧ (t.mot m).deadTimer.isRunning = false ∧
        t.claims = s.claims.set m {
          state := if (s.claim m).inFlight = 0 then .opened else .waiting
          segment := (s.motCfg m).segment, amount := (s.motCfg m).claimAmount, hold := (s.motCfg m).claimHold
          level := c.level, override := s.cfg.isSafety c.origin && decide (c.level ≤ 7)
          settle := if (s.claim m).inFlight = 0 then .running s.now else (t.claim m).settle
          sendMoment := none, inFlight := if (s.claim m).inFlight = 0 then 1 else (s.claim m).inFlight } ∧
        t.link.queue = TxFrame.queued ((if (s.claim m).inFlight = 0 then
            [⟨c.level, .claim m (s.motCfg m).segment (s.motCfg m).claimAmount (s.motCfg m).claimHold, 0, false⟩] else [])
          ++ s.answersTo f .taken) s.link.queue)

/-- MOVE and HOME where they do not start: refused STOPPED while the latch is set, else NOT-READY in LISTEN. Otherwise a pending
entry of the same origin and tag is first removed and answered DISPLACED; then TRIPPED refuses, and STOPPING, SETTLING, or a
holder of the same or a better level queues the command, at its place by level, with 2000 ms (LATCHED) or 350 ms
(HOLD-TO-RUN) to live. On a full queue a command worse than or equal to the last entry is refused FULL; a better one displaces
that entry (R111, R115, R116, R117). -/
def Obligations.MoveAndHomeAreRefusedOrQueued : Prop :=
  ∀ (s : State) (f : Frame) (v : Verb) (m : MotIx) (c : MotionCmd) (q : List PendEntry) (a : List TxFrame) (e : PendEntry),
    s.QueueLaw → v = .move ∨ v = .home → s.Ordered v f → cmdIndex f.payload = m.val → (s.motCfg m).configured = true →
    s.HasRoom 3 →
    c = (if v = .move then readMove (frameCmd s.cfg f) (s.motCfg m).travel else readHome (frameCmd s.cfg f)) →
    q = s.motionQueue.filter (fun x => !x.named c.origin c.tag) →
    a = (s.motionQueue.filter (fun x => x.named c.origin c.tag)).flatMap (fun x => s.answersFor x.cmd .displaced) →
    e = ⟨c, m, s.now + (if c.mode = .latched then 2000000 else 350000)⟩ →
    (s.stopLatch = true → exec (v.row f) s = .next { s with link := s.link.withQueued (s.answersTo f (.refused .stopped)) }) ∧
    (s.stopLatch = false → s.mode = .listen →
      exec (v.row f) s = .next { s with link := s.link.withQueued (s.answersTo f (.refused .notReady)) }) ∧
    (s.stopLatch = false → s.mode = .ready →
      ((s.mot m).state = .tripped →
        exec (v.row f) s = .next { s with motionQueue := q, link := s.link.withQueued (a ++ s.answersTo f (.refused .tripped)) }) ∧
      ((s.mot m).state = .stopping ∨ (s.mot m).state = .settling ∨
          (((s.mot m).state = .claiming ∨ (s.mot m).state = .starting ∨ (s.mot m).state = .running) ∧
            (s.mot m).holder.any (fun h => decide (h.cmd.level ≤ c.level)) = true) →
        (q.length < 8 →
          exec (v.row f) s = .next { s with
            motionQueue := q.takeWhile (fun x => decide (x.cmd.level ≤ c.level)) ++ e :: q.dropWhile (fun x => decide (x.cmd.level ≤ c.level))
            link := s.link.withQueued (a ++ s.answersTo f .queued) }) ∧
        (q.length = 8 → (∀ w ∈ q.getLast?, w.cmd.level ≤ c.level) →
          exec (v.row f) s = .next { s with link := s.link.withQueued (s.answersTo f (.refused .full)) }) ∧
        (∀ w ∈ q.getLast?, q.length = 8 → c.level < w.cmd.level →
          exec (v.row f) s = .next { s with
            motionQueue := q.dropLast.takeWhile (fun x => decide (x.cmd.level ≤ c.level)) ++ e :: q.dropLast.dropWhile (fun x => decide (x.cmd.level ≤ c.level))
            link := s.link.withQueued (s.answersFor w.cmd .displaced ++ s.answersTo f .queued) })))

/-- A MOVE or HOME of a better level than the holder's preempts. An unreferenced target is refused. In the direction of the
channel, or with its position as its target, it meets tests 5 and 7 and replaces the holder in place: in CLAIMING the claim
stands, and becomes override where the command is; in STARTING and RUNNING state, direction and outputs stand and the speed
goes on to the speed then chosen, over Ramp Down where the channel enters its slow band and otherwise by the ramp toward it
where that differs from the speed the fade leads to (log 23 for a SLOW holder inside the band); a target that is the position
sends the channel to STOPPING. In the other direction a channel in STARTING or RUNNING enters STOPPING with its direction output
kept on, the command waits as its follow-on and is answered QUEUED, and a HELD claim is withdrawn; one in CLAIMING puts the
command to tests 3 to 8 and the margin test: refused, it carries on; completed, its claim is withdrawn and it becomes IDLE;
passed, its claim is withdrawn and it stands in CLAIMING in the new direction under the command, with a claim that waits (R153,
R154, R147, R75, R145, R144, R146, R67). -/
def Obligations.PreemptionTakesTheChannel : Prop :=
  ∀ (s : State) (f : Frame) (v : Verb) (m : MotIx) (c : MotionCmd) (deadline : Option Nat) (zero : List TxFrame) (d : Dir) (o : Check) (r : Reason), s.Sound → v = .move ∨ v = .home →
    s.Ordered v f → cmdIndex f.payload = m.val → (s.motCfg m).configured = true → s.mode = .ready → s.stopLatch = false →
    (s.mot m).state = .claiming ∨ (s.mot m).state = .starting ∨ (s.mot m).state = .running →
    (s.mot m).holder.any (fun h => decide (c.level < h.cmd.level)) = true →
    s.pendingEntry (frameSource f) (cmdTag f.payload) = none → s.HasRoom 2 →
    c = (if v = .move then readMove (frameCmd s.cfg f) (s.motCfg m).travel else readHome (frameCmd s.cfg f)) →
    deadline = (if c.mode = .holdToRun ∧ (s.motCfg m).localHold = false then some (s.now + 350000) else none) →
    zero = (if (s.claim m).state = .opened ∨ (s.claim m).state = .held then
      [⟨(s.claim m).level, .claim m (s.claim m).segment 0 (s.claim m).hold, 0, false⟩] else []) →
    (c.target ≠ none ∧ (s.mot m).referenced = false →
      exec (v.row f) s = .next { s with link := s.link.withQueued (s.answersTo f (.refused .unreferenced)) }) ∧
    (c.target = none ∨ (s.mot m).referenced = true →
      c.dirFrom (s.mot m).position = (s.mot m).direction ∨ c.dirFrom (s.mot m).position = none →
      (v = .home ∧ s.cfg.hasRole (.stowEnd m) = false →
        exec (v.row f) s = .next { s with link := s.link.withQueued (s.answersTo f (.refused .badArgument)) }) ∧
      (¬ (v = .home ∧ s.cfg.hasRole (.stowEnd m) = false) →
        (c.mode = .holdToRun ∧ (s.motCfg m).localHold = true ∧ s.roleActive (.hold m) = false →
          exec (v.row f) s = .next { s with link := s.link.withQueued (s.answersTo f (.refused .interlock)) }) ∧
        (¬ (c.mode = .holdToRun ∧ (s.motCfg m).localHold = true ∧ s.roleActive (.hold m) = false) →
          ((s.mot m).state = .claiming →
            exec (v.row f) s = .next { s with
              mots := s.mots.set m { s.mot m with holder := some ⟨c, deadline⟩ }
              claims := s.claims.set m { s.claim m with override := (s.claim m).override || (s.cfg.isSafety c.origin && decide (c.level ≤ 7)) }
              link := s.link.withQueued (s.answersTo f .taken) }) ∧
          ((s.mot m).state ≠ .claiming → c.dirFrom (s.mot m).position = (s.mot m).direction →
            ∃ t, exec (v.row f) s = .next t ∧ t = { s with mots := t.mots, link := s.link.withQueued (s.answersTo f .taken) } ∧
              t.mots = s.mots.set m { s.mot m with
                holder := some ⟨c, deadline⟩, slow := (t.mot m).slow, speedFade := (t.mot m).speedFade } ∧
              (t.mot m).slow = (decide (c.speed = .slow) || t.inSlowBand m) ∧
              (t.mot m).speedGoal = (if (t.mot m).slow then (s.motCfg m).slowSpeed else (s.motCfg m).fullSpeed) ∧
              ((s.mot m).slow = false → c.speed = .full → t.inSlowBand m = true →
                (t.mot m).speedFade = some ⟨(s.mot m).speed, (s.motCfg m).slowSpeed, max 1 (s.motCfg m).rampDown, 0⟩) ∧
              (¬ ((s.mot m).slow = false ∧ c.speed = .full ∧ t.inSlowBand m = true) →
                (t.mot m).speedFade =
                  if (s.mot m).speedGoal = (t.mot m).speedGoal then (s.mot m).speedFade
                  else some ⟨(s.mot m).speed, (t.mot m).speedGoal,
                    max 1 (if (s.mot m).speed < (t.mot m).speedGoal then (s.motCfg m).rampUp else (s.motCfg m).rampDown), 0⟩)) ∧
          ((s.mot m).state ≠ .claiming → c.dirFrom (s.mot m).position = none →
            ∃ t, exec (v.row f) s = .next t ∧
              t = { s with mots := t.mots, claims := t.claims, segs := t.segs, dims := t.dims, pub := t.pub, link := t.link } ∧
              t.mots = s.mots.set m { s.mot m with
                state := .stopping, holder := none, stallTimer := .stopped 0, slow := (t.mot m).slow
                speedFade := some ⟨(s.mot m).speed, 0, max 1 (s.motCfg m).rampDown, 0⟩ } ∧
              (t.claim m).state = .none ∧ t.link.queue = TxFrame.queued (s.answersTo f .taken ++ zero) s.link.queue)))) ∧
    (c.target = none ∨ (s.mot m).referenced = true → (c.dirFrom (s.mot m).position).isSome = true →
      c.dirFrom (s.mot m).position ≠ (s.mot m).direction →
      ((s.mot m).state ≠ .claiming →
        ∃ t, exec (v.row f) s = .next t ∧
          t = { s with mots := t.mots, claims := t.claims, segs := t.segs, dims := t.dims, pub := t.pub, link := t.link } ∧
          t.mots = s.mots.set m { s.mot m with
            state := .stopping, holder := none, stallTimer := .stopped 0, followOn := some ⟨c, deadline⟩
            speedFade := some ⟨(s.mot m).speed, 0, max 1 (s.motCfg m).rampDown, 0⟩ } ∧
          (t.claim m).state = .none ∧ t.link.queue = TxFrame.queued (s.answersTo f .queued ++ zero) s.link.queue) ∧
      ((s.mot m).state = .claiming → c.dirFrom (s.mot m).position = some d →
        o = (if s.roleActive (.stowEnd m) = true ∧ s.roleActive (.deployEnd m) = true then .refused .sensor
          else if v = .home ∧ s.cfg.hasRole (.stowEnd m) = false then .refused .badArgument
          else if (d = .outward ∧ s.roleActive (.deployEnd m) = true) ∨ (d = .inward ∧ s.roleActive (.stowEnd m) = true) then .completes
          else if c.mode = .holdToRun ∧ (s.motCfg m).localHold = true ∧ s.roleActive (.hold m) = false then .refused .interlock
          else if ∃ n : Fin 16, s.cfg.locks[n].applies m d = true ∧ s.lockHolds Freshness.starts s.cfg.locks[n] = false then .refused .interlock
          else if ¬ (s.cfg.isSafety c.origin = true ∧ c.level ≤ 7) ∧
              ((s.seg (s.motCfg m).segment).headroom < ((s.segCfg (s.motCfg m).segment).margin : Int) ∨ s.saturated = true) then .refused .budget
          else .passes d) →
        (o = .refused r →
          exec (v.row f) s = .next { s with link := s.link.withQueued (s.answersTo f (.refused r)) }) ∧
        (o = .completes → (∀ e ∈ s.motionQueue, e.channel ≠ m) → s.postureNamed m = false →
          ∃ t, exec (v.row f) s = .next t ∧
            t = { s with mots := t.mots, claims := t.claims, segs := t.segs, dims := t.dims, pub := t.pub, link := t.link } ∧
            t.mots = s.mots.set m { s.mot m with
              state := .idle, holder := none, deadTimer := (t.mot m).deadTimer, posture := t.derivePosture m } ∧
            (t.claim m).state = .none ∧ t.link.queue = TxFrame.queued (zero ++ s.answersTo f .taken) s.link.queue) ∧
        (o = .passes d → (s.claim m).state = .opened ∨ (s.claim m).inFlight ≠ 0 → s.postureNamed m = false →
          ∃ t, exec (v.row f) s = .next t ∧
            t = { s with mots := t.mots, claims := t.claims, segs := t.segs, dims := t.dims, pub := t.pub, link := t.link } ∧
            t.mots = s.mots.set m { s.mot m with
              direction := some d, holder := some ⟨c, deadline⟩, deadTimer := (t.mot m).deadTimer
              posture := if d = .outward then .outbound else .inbound } ∧
            t.claims = s.claims.set m {
              state := .waiting, segment := (s.motCfg m).segment, amount := (s.motCfg m).claimAmount
              hold := (s.motCfg m).claimHold, level := c.level, override := s.cfg.isSafety c.origin && decide (c.level ≤ 7)
              settle := (t.claim m).settle, sendMoment := none
              inFlight := (s.claim m).inFlight + (if (s.claim m).state = .opened then 1 else 0) } ∧
            t.link.queue = TxFrame.queued (zero ++ s.answersTo f .taken) s.link.queue)))

/-- HOLD gives every HOLD-TO-RUN command of its origin and tag 350 ms from now: the holder and the follow-on of each channel
with hold source LINK, and the pending entry. It changes nothing else, and is not answered (R113, R117, R150). -/
def Obligations.HoldRefreshesItsCommands : Prop :=
  ∀ (s : State) (f : Frame) (src : NodeId) (tag : Nat), s.Ordered .hold f → src = frameSource f → tag = cmdTag f.payload →
    exec (.hold f) s = .next { s with
      mots := Vector.ofFn (fun m => { s.mot m with
        holder := (s.mot m).holder.map (fun h => if h.cmd.origin = src ∧ h.cmd.tag = tag ∧ h.cmd.mode = .holdToRun ∧ (s.motCfg m).localHold = false then { h with deadline := some (s.now + 350000) } else h)
        followOn := (s.mot m).followOn.map (fun h => if h.cmd.origin = src ∧ h.cmd.tag = tag ∧ h.cmd.mode = .holdToRun ∧ (s.motCfg m).localHold = false then { h with deadline := some (s.now + 350000) } else h) })
      motionQueue := s.motionQueue.map (fun e => if e.named src tag = true ∧ e.cmd.mode = .holdToRun then { e with deadline := s.now + 350000 } else e) }

/-- HALT. A pending entry with its origin and tag for its channel is taken back: removed, answered CANCELLED, and the HALT
answered TAKEN. Otherwise, where the channel has a holder, a HALT neither of the holder's origin nor of its level or a better
one is refused OUTRANKED; any other is answered TAKEN and ends the motion: CLAIMING to IDLE and STARTING and RUNNING to STOPPING,
with the zero CLAIM of a claim OPEN or HELD, TRIPPED to SETTLING, without effect in the other states (R112, R152, R167, R73). -/
def Obligations.HaltActsByState : Prop :=
  ∀ (s : State) (f : Frame) (m : MotIx) (src : NodeId) (tag : Nat) (zero : List TxFrame), s.Sound → s.Ordered .halt f → cmdIndex f.payload = m.val →
    (s.motCfg m).configured = true → src = frameSource f → tag = cmdTag f.payload → s.HasRoom 2 →
    zero = (if (s.claim m).state = .opened ∨ (s.claim m).state = .held then
      [⟨(s.claim m).level, .claim m (s.claim m).segment 0 (s.claim m).hold, 0, false⟩] else []) →
    (∀ e ∈ s.motionQueue, e.named src tag = true → e.channel = m →
      exec (.halt f) s = .next { s with
        motionQueue := s.motionQueue.filter (fun x => !x.named src tag)
        link := s.link.withQueued (s.answersFor e.cmd .cancelled ++ s.answersTo f .taken) }) ∧
    ((∀ e ∈ s.motionQueue, ¬ (e.named src tag = true ∧ e.channel = m)) →
      ((s.mot m).holder.any (fun h => decide (h.cmd.origin ≠ src ∧ h.cmd.level < s.cfg.adjust src f.level.toNat)) = true →
        exec (.halt f) s = .next { s with link := s.link.withQueued (s.answersTo f (.refused .outranked)) }) ∧
      ((s.mot m).state = .idle ∨ (s.mot m).state = .stopping ∨ (s.mot m).state = .settling →
        exec (.halt f) s = .next { s with link := s.link.withQueued (s.answersTo f .taken) }) ∧
      ((s.mot m).holder.any (fun h => decide (h.cmd.origin ≠ src ∧ h.cmd.level < s.cfg.adjust src f.level.toNat)) = false →
        ((s.mot m).state = .claiming → (∀ e ∈ s.motionQueue, e.channel ≠ m) →
          ∃ t, exec (.halt f) s = .next t ∧ (t.mot m).state = .idle ∧ (t.mot m).holder = none ∧ (t.claim m).state = .none ∧
            (s.postureNamed m = false →
              t = { s with mots := t.mots, claims := t.claims, segs := t.segs, dims := t.dims, pub := t.pub, link := t.link } ∧
              t.link.queue = TxFrame.queued (s.answersTo f .taken ++ zero) s.link.queue ∧
              t.mots = s.mots.set m { s.mot m with
                state := .idle, holder := none, deadTimer := (t.mot m).deadTimer, posture := t.derivePosture m })) ∧
        ((s.mot m).state = .starting ∨ (s.mot m).state = .running →
          ∃ t, exec (.halt f) s = .next t ∧
            t = { s with mots := t.mots, claims := t.claims, segs := t.segs, dims := t.dims, pub := t.pub, link := t.link } ∧
            (t.claim m).state = .none ∧ t.link.queue = TxFrame.queued (s.answersTo f .taken ++ zero) s.link.queue ∧
            t.mots = s.mots.set m { s.mot m with
              state := .stopping, holder := none, stallTimer := .stopped 0
              speedFade := some ⟨(s.mot m).speed, 0, max 1 (s.motCfg m).rampDown, 0⟩ }) ∧
        ((s.mot m).state = .tripped →
          ∃ t, exec (.halt f) s = .next t ∧ (t.mot m).state = .settling ∧ (t.mot m).tripReason = none ∧
            (t.mot m).deadTimer = .running s.now ∧ (t.mot m).outOn = false ∧ (t.mot m).inOn = false ∧
            (s.postureNamed m = false →
              t = { s with mots := t.mots, pub := t.pub, link := t.link } ∧
              t.link.queue = TxFrame.queued (s.answersTo f .taken) s.link.queue ∧ ∀ k : MotIx, k ≠ m → t.mot k = s.mot k))))

/-- STOPPING_FADE_END and DEAD_TIME_END. At the end of its stopping fade a STOPPING channel enters SETTLING, all three outputs off
and its dead time from 0. At the end of its dead time the timer stops. A SETTLING channel without a follow-on becomes IDLE. A
follow-on is put to the start check: where that passes it becomes the holder in CLAIMING with its deadline kept; where it is
refused or completes without motion, that is answered and the channel becomes IDLE. A follow-on that a pending entry for the
channel outranks is answered DISPLACED. A channel that becomes IDLE takes its first pending entry: refused or completed, that is
answered and the next one is taken; passed, it becomes the holder in CLAIMING, with the entry's own deadline (R147, R149, R140,
R141, R114, R118). Where an input change before that moment has ended the state, the command has no event. That
STOPPING_FADE_END as a command of its own brings the clock to the tick of the last step and steps that channel alone is the
model's reading (log 15). That a timer's command brings the clock to the moment it falls due is the model's choice (log 2). -/
def Obligations.StoppingLeadsThroughSettlingOn : Prop :=
  ∀ (s u : State) (m : MotIx) (since : Nat) (d : Dir) (r : Reason) (o : Machine.Outcome), s.Sound →
    (∀ f ∈ (s.mot m).speedFade, (s.mot m).state = .stopping → s.fadeTimer = .running since →
      u = s.passTo (since + 10000 * (f.steps - f.taken)) →
      ((u.mot m).state ≠ .stopping → exec (.stoppingFadeEnd m) s = .next u) ∧
      ((u.mot m).state = .stopping → (u.mot m).speedFade = some f →
        ∃ t, exec (.stoppingFadeEnd m) s = .next t ∧ (t.mot m).state = .settling ∧ (t.mot m).outOn = false ∧ (t.mot m).inOn = false ∧
          t.speedDuty m = 0 ∧ (t.mot m).deadTimer = .running u.now ∧ (t.mot m).followOn = (u.mot m).followOn ∧
          t.motionQueue = u.motionQueue ∧
          (s.postureNamed m = false →
            t = { u with mots := t.mots, pub := t.pub, link := t.link } ∧ t.link.queue = u.link.queue ∧ ∀ k : MotIx, k ≠ m → t.mot k = u.mot k))) ∧
    ((s.mot m).state = .settling → (s.mot m).deadTimer = .running since → u = s.passTo (since + 1000 * (s.motCfg m).deadTime) →
      ((u.mot m).state ≠ .settling ∨ (u.mot m).deadTimer ≠ .running since → exec (.deadTimeEnd m) s = .next u) ∧
      ((u.mot m).state = .settling → (u.mot m).deadTimer = .running since →
        ((u.mot m).followOn = none → (∀ e ∈ u.motionQueue, e.channel ≠ m) →
          ∃ t, exec (.deadTimeEnd m) s = .next t ∧ (t.mot m).deadTimer.isRunning = false ∧
            t = { u with mots := u.mots.set m { u.mot m with state := .idle, deadTimer := (t.mot m).deadTimer } }) ∧
        (∀ h ∈ (u.mot m).followOn, u.HasRoom 2 →
          ((∀ e ∈ u.motionQueue, e.channel ≠ m) → u.startCheck m h.cmd h.deadline = .refused r →
            ∃ t, exec (.deadTimeEnd m) s = .next t ∧ (t.mot m).deadTimer.isRunning = false ∧ t = { u with
              mots := u.mots.set m { u.mot m with state := .idle, followOn := none, deadTimer := (t.mot m).deadTimer }
              link := u.link.withQueued (s.answersFor h.cmd (.refused r)) }) ∧
          ((∀ e ∈ u.motionQueue, e.channel ≠ m) → u.startCheck m h.cmd h.deadline = .completes →
            ∃ t, exec (.deadTimeEnd m) s = .next t ∧ (t.mot m).deadTimer.isRunning = false ∧ t = { u with
              mots := u.mots.set m { u.mot m with state := .idle, followOn := none, deadTimer := (t.mot m).deadTimer }
              link := u.link.withQueued (s.answersFor h.cmd .taken) }) ∧
          ((∀ e ∈ u.motionQueue, e.channel ≠ m) → u.startCheck m h.cmd h.deadline = .passes d → s.postureNamed m = false →
            ∃ t, exec (.deadTimeEnd m) s = .next t ∧ (t.mot m).deadTimer.isRunning = false ∧
              t = { u with mots := t.mots, claims := t.claims, segs := t.segs, dims := t.dims, pub := t.pub, link := t.link } ∧
              t.mots = u.mots.set m { u.mot m with
                state := .claiming, direction := some d, holder := some h, followOn := none, deadTimer := (t.mot m).deadTimer
                posture := if d = .outward then .outbound else .inbound } ∧
              (t.claim m).state.isLive = true ∧ (t.claim m).level = h.cmd.level ∧ ∀ k : MotIx, k ≠ m → t.claim k = u.claim k) ∧
          ((u.motionQueue.find? (fun e => decide (e.channel = m))).any (fun e => decide (e.cmd.level < h.cmd.level)) = true →
            ∃ t, exec (.deadTimeEnd m) s = .next t ∧ (t.mot m).followOn = none ∧
              (∀ x ∈ s.answersFor h.cmd .displaced, u.link.queue = [] → t.link.queue.any (fun y => decide (y = x)) = true))) ∧
        (∀ e ∈ u.motionQueue.find? (fun x => decide (x.channel = m)), (u.mot m).followOn = none → u.HasRoom 3 → s.postureNamed m = false →
          (u.startCheck m e.cmd none = .passes d →
            ∃ t, exec (.deadTimeEnd m) s = .next t ∧
              t = { u with mots := t.mots, claims := t.claims, segs := t.segs, dims := t.dims, motionQueue := t.motionQueue, pub := t.pub, link := t.link } ∧
              t.motionQueue = u.motionQueue.filter (fun x => !x.named e.cmd.origin e.cmd.tag) ∧
              t.mots = u.mots.set m { u.mot m with
                state := .claiming, direction := some d, deadTimer := (t.mot m).deadTimer
                holder := some ⟨e.cmd, if e.cmd.mode = .holdToRun ∧ (s.motCfg m).localHold = false then some e.deadline else none⟩
                posture := if d = .outward then .outbound else .inbound } ∧
              (t.claim m).state.isLive = true ∧ (t.claim m).level = e.cmd.level) ∧
          ((u.startCheck m e.cmd none = .refused r ∧ o = .refused r) ∨ (u.startCheck m e.cmd none = .completes ∧ o = .taken) →
            ((∀ x ∈ u.motionQueue, x.channel = m → x = e) →
              ∃ t, exec (.deadTimeEnd m) s = .next t ∧ (t.mot m).deadTimer.isRunning = false ∧ t = { u with
                mots := u.mots.set m { u.mot m with state := .idle, deadTimer := (t.mot m).deadTimer }
                motionQueue := u.motionQueue.filter (fun x => !x.named e.cmd.origin e.cmd.tag)
                link := u.link.withQueued (s.answersFor e.cmd o) }) ∧
            (∀ y ∈ (u.motionQueue.filter (fun x => !x.named e.cmd.origin e.cmd.tag)).find? (fun x => decide (x.channel = m)),
              u.startCheck m y.cmd none = .passes d →
              ∃ t, exec (.deadTimeEnd m) s = .next t ∧ (t.mot m).state = .claiming ∧ (t.mot m).holder.any (fun h => decide (h.cmd = y.cmd)) = true ∧
                t.motionQueue = u.motionQueue.filter (fun x => !x.named e.cmd.origin e.cmd.tag && !x.named y.cmd.origin y.cmd.tag))))))

/-- Hold loss, at the hold deadline on a LINK channel and at the release of the hold input of a LOCAL one: CLAIMING ends in IDLE
with the claim withdrawn, STARTING and RUNNING in STOPPING (R150, R151). A deadline that an input change before it has moved on,
or whose holder it has ended, is no hold loss. That a timer's command brings the clock to the moment it falls due is the model's
choice (log 2). -/
def Obligations.HoldLossEndsTheMotion : Prop :=
  ∀ (s u : State) (c : Instr) (m : MotIx) (due : Nat), s.Sound →
    ((s.mot m).holder.any (fun h => decide (h.deadline = some due)) = true → u = s.passTo due →
      (u.mot m).holder.any (fun h => decide (h.deadline = some due)) = false → exec (.holdDeadlineExpiry m) s = .next u) ∧
    ((c = .holdDeadlineExpiry m ∧ (s.mot m).holder.any (fun h => decide (h.deadline = some due)) = true ∧ u = s.passTo due ∧
        (u.mot m).holder.any (fun h => decide (h.deadline = some due)) = true) ∨
      (∃ i : InIx, c = .inputChangeAccepted i false ∧ s.cfg.roles[i] = .hold m ∧ (s.input i).filtered = true ∧ s.built = true ∧
        (s.motCfg m).localHold = true ∧ (s.mot m).holder.any (fun h => decide (h.cmd.mode = .holdToRun)) = true ∧ s.flagNamed i.val = false ∧ u = s) →
    (∀ e ∈ u.motionQueue, e.channel ≠ m) →
    ((u.mot m).state = .claiming →
      ∃ t, exec c s = .next t ∧ t.now = u.now ∧ (t.mot m).state = .idle ∧ (t.mot m).holder = none ∧ (t.claim m).state = .none ∧
        (t.mot m).outOn = false ∧ (t.mot m).inOn = false) ∧
    ((u.mot m).state = .starting ∨ (u.mot m).state = .running → u.HasRoom 1 →
      ∃ t, exec c s = .next t ∧ t = { u with mots := t.mots, claims := t.claims, segs := t.segs, dims := t.dims, inputs := t.inputs, pins := t.pins, pub := t.pub, link := t.link } ∧
        (t.claim m).state = .none ∧
        t.mots = u.mots.set m { u.mot m with
          state := .stopping, holder := none, stallTimer := .stopped 0
          speedFade := some ⟨(u.mot m).speed, 0, max 1 (s.motCfg m).rampDown, 0⟩ }))

/-- PENDING_DEADLINE_EXPIRY: at its deadline the entry leaves the queue and is answered EXPIRED; nothing else changes (R117). An
entry that an input change before its deadline has taken from the queue, or given another deadline, does not expire there. That
a timer's command brings the clock to the moment it falls due is the model's choice (log 2). -/
def Obligations.ExpiredEntryLeavesTheQueue : Prop :=
  ∀ (s u : State) (n : NodeId) (tag : Fin 16) (e : PendEntry), s.QueueLaw → u.QueueLaw → e ∈ s.motionQueue → e.named n tag.val = true →
    s.active = true → u = s.passTo e.deadline →
    ((∃ x ∈ u.motionQueue, x.named n tag.val = true ∧ x.deadline = e.deadline ∧ x.cmd = e.cmd) → u.HasRoom 1 →
      exec (.pendingDeadlineExpiry n tag) s = .next { u with
        motionQueue := u.motionQueue.filter (fun x => !x.named n tag.val)
        link := u.link.withQueued (s.answersFor e.cmd .expired) }) ∧
    ((∀ x ∈ u.motionQueue, x.named n tag.val = true → x.deadline ≠ e.deadline) →
      exec (.pendingDeadlineExpiry n tag) s = .next u)

/-! ## Safety -/

/-- STOP_ARRIVAL. With the latch set it changes nothing. Otherwise the latch is set, every moving channel trips with reason
STOP, all three outputs off, every follow-on and every pending command is dropped, and the dimmers' levels stand; a channel
that was not moving stays as it was, without its follow-on (R172, R165). -/
def Obligations.StopSetsTheLatch : Prop :=
  ∀ (s : State) (f : Frame), s.Sound → s.Hears .stop f →
    (s.stopLatch = true → exec (.stopArrival f) s = .next s) ∧
    (s.stopLatch = false →
      ∃ t, exec (.stopArrival f) s = .next t ∧ t.stopLatch = true ∧ t.mode = s.mode ∧ t.motionQueue = [] ∧
        t.peers = s.peers ∧ t.foreign = s.foreign ∧ t.inputs = s.inputs ∧ t.softFlags = s.softFlags ∧ t.scenes = s.scenes ∧
        (∀ d : DimIx, (t.dim d).applied = (s.dim d).applied ∧ (t.dim d).slot = (s.dim d).slot) ∧
        ∀ m : MotIx, (t.claim m).state = .none ∧
          ((s.mot m).state.isMoving = true → t.mot m = { s.mot m with
            state := .tripped, tripReason := some .stop, holder := none, followOn := none, outOn := false, inOn := false
            speed := 0, speedFade := none, speedWaiting := 0, speedActive := 0, stallTimer := .stopped 0
            deadTimer := (t.mot m).deadTimer, posture := .fault }) ∧
          ((s.mot m).state.isMoving = false → t.mot m = { s.mot m with followOn := none }))

/-- RELEASE_ARRIVAL clears the latch when it comes from a safety origin while the own ESTOP input is not active and no FRESH or
LATE peer shows E-stop held; otherwise, or with the latch clear, nothing changes. The stop-latch mode bit clears, which is an
early cause; no motion restarts, and a tripped channel stays TRIPPED (R173). -/
def Obligations.ReleaseClearsTheLatch : Prop :=
  ∀ (s : State) (f : Frame), s.ModeLaw → s.Hears .release f →
    (s.stopLatch = false ∨ s.cfg.isSafety (frameSource f) = false ∨ s.roleActive .estop = true ∨
        (∃ n : NodeId, ((s.peer n).freshness = .fresh ∨ (s.peer n).freshness = .late) ∧ (s.peer n).contents.bits.estopHeld = true) →
      exec (.releaseArrival f) s = .next s) ∧
    (s.stopLatch = true → s.cfg.isSafety (frameSource f) = true → s.roleActive .estop = false →
      (∀ n : NodeId, (s.peer n).freshness = .fresh ∨ (s.peer n).freshness = .late → (s.peer n).contents.bits.estopHeld = false) →
      ∃ t, exec (.releaseArrival f) s = .next t ∧ t = { s with stopLatch := false, pub := t.pub, link := t.link } ∧
        t.link.queue = s.link.queue ∧ t.mots = s.mots ∧ t.contents = { s.contents with bits := { s.contents.bits with stopLatch := false } } ∧
        t.pub = s.publisherAfter t.contents)

/-- STALL_TIMER_EXPIRY: a channel in STARTING or RUNNING whose stall timer has reached its stall time trips STALL: all three outputs
off, no holder, no follow-on, no claim, posture FAULT. Where no interlock entry names a posture of the own node, the moving
channels enabled for sibling trips trip SIBLING, and the others stay as they are (R162, R165, R166). A timer that a pulse or
another input change before that moment has restarted or stopped has no event. That a timer's command brings the clock to the
moment it falls due is the model's choice (log 2). -/
def Obligations.StallTimerTripsTheChannel : Prop :=
  ∀ (s u : State) (m : MotIx) (since : Nat), s.Sound → (s.mot m).state = .starting ∨ (s.mot m).state = .running →
    s.hasPulse m = true → 0 < (s.motCfg m).stallTime → (s.mot m).stallTimer = .running since →
    u = s.passTo (since + 1000 * (s.motCfg m).stallTime) →
    ((u.mot m).stallTimer ≠ .running since → exec (.stallTimerExpiry m) s = .next u) ∧
    ((u.mot m).stallTimer = .running since →
      ∃ t, exec (.stallTimerExpiry m) s = .next t ∧ t.now = u.now ∧
        t.mot m = { u.mot m with
          state := .tripped, tripReason := some .stall, holder := none, followOn := none, outOn := false, inOn := false
          speed := 0, speedFade := none, speedWaiting := 0, speedActive := 0, stallTimer := .stopped 0
          deadTimer := (t.mot m).deadTimer, posture := .fault } ∧
        (t.claim m).state = .none ∧ (t.mot m).deadTimer.isRunning = false ∧
        ((∀ k : MotIx, s.postureNamed k = false) → u.HasRoom 4 → ∀ k : MotIx, k ≠ m →
          ((s.motCfg k).siblingTrip = true ∧ (u.mot k).state.isMoving = true →
            (t.mot k).state = .tripped ∧ (t.mot k).tripReason = some .sibling ∧ (t.mot k).outOn = false ∧ (t.mot k).inOn = false) ∧
          (¬ ((s.motCfg k).siblingTrip = true ∧ (u.mot k).state.isMoving = true) → t.mot k = u.mot k ∧ t.claim k = u.claim k)))

/-- CURRENT_SAMPLE: each configured channel's reading, limited to 0..1023 and converted to floor(reading Scale / 1024), joins its
history of 16 in the oldest one's place, and its running draw is the floor of their mean. A sample at or above the trip current
in force is counted: the first of a pair, or, following one at once, an OVERCURRENT trip; any other clears the count. The trip
current is Inrush Trip in STARTING, Run Trip in RUNNING and STOPPING (R131, R37, R38, R132). That every channel at its second
such sample trips OVERCURRENT, whatever sibling trip comes of another one's, is the model's order (logs 6 and 35), and that the
next sample falls 1 ms after the due moment of this one its reading (log 33). That a timer's command brings the clock to the
moment it falls due is the model's choice (log 2). -/
def Obligations.CurrentSampleJoinsTheHistory : Prop :=
  ∀ (s u : State) (readings : Vector Int 4) (since : Nat), s.Sound → s.sampleTimer = .running since →
    u = s.passTo (since + 1000) →
    ∃ t, exec (.currentSample readings) s = .next t ∧ t.sampleTimer = .running (since + 1000) ∧ t.now = u.now ∧
      (∀ m : MotIx, (s.motCfg m).configured = true →
        (∀ k : Fin 15, (t.mot m).history[k.val] = (u.mot m).history[k.val + 1]) ∧
        (t.mot m).history[15] = s.sampleOf readings m ∧ (t.mot m).running = (t.mot m).history.toList.sum / 16 ∧
        (t.mot m).overCount = (if u.AtTrip readings m ∧ (u.mot m).overCount = 0 then 1 else 0) ∧
        (u.AtTrip readings m ∧ (u.mot m).overCount ≠ 0 → (t.mot m).state = .tripped ∧ (t.mot m).tripReason = some .overcurrent)) ∧
      (∀ m : MotIx, (s.motCfg m).configured = false → t.mot m = u.mot m) ∧
      ((∀ m : MotIx, ¬ (u.AtTrip readings m ∧ (u.mot m).overCount ≠ 0)) →
        t = { u with sampleTimer := t.sampleTimer, sense := t.sense, mots := t.mots, segs := t.segs, dims := t.dims, pub := t.pub, link := t.link } ∧
        ∀ m : MotIx, t.mot m = { u.mot m with history := (t.mot m).history, running := (t.mot m).running, overCount := (t.mot m).overCount })

/-! ## Inputs and key bindings -/

/-- INPUT_CHANGE_ACCEPTED: the new state becomes the filtered state with a run count of 0; no other input record changes. For role
NONE or FLAG, while nothing moves, nothing else changes. The ESTOP input going active sets the latch, offers a STOP of reason
ESTOP-INPUT at level 0 and starts the re-broadcast timer; going inactive it stops that timer at 0 and leaves the latch.
RE_BROADCAST_TIMER_EXPIRY offers a STOP of reason RE-BROADCAST and restarts the timer, where no input change before that moment
has stopped it (R127, R129, R171). That a change to the state the filter holds is none is the model's reading (log 10), and that
the pin then stands at the accepted state its choice (log 16). That a timer's command brings the clock to the moment it falls
due is the model's choice (log 2). -/
def Obligations.InputChangeUpdatesItsRecord : Prop :=
  ∀ (s u : State) (i : InIx) (active : Bool) (since : Nat), s.Sound → s.built = true →
    ((s.input i).filtered = active → exec (.inputChangeAccepted i active) s = .next s) ∧
    ((s.input i).filtered ≠ active →
      ∃ t, exec (.inputChangeAccepted i active) s = .next t ∧ t.inputs = s.inputs.set i ⟨active, 0, false⟩ ∧ t.now = s.now ∧
        t.pins = s.pins.set i active ∧
        ((s.cfg.roles[i] = .none ∨ s.cfg.roles[i] = .flag) → s.AtRest →
          t = { s with inputs := t.inputs, pins := t.pins, choices := t.choices, pub := t.pub, link := t.link } ∧ t.link.queue = s.link.queue) ∧
        (s.cfg.roles[i] = .estop → active = true → t.stopLatch = true ∧ t.Still ∧ t.rebroadcast = .running s.now ∧
          (s.active = true → s.AtRest → s.motionQueue = [] → (∀ m : MotIx, (s.mot m).followOn = none) → s.HasRoom 1 →
            t.link.queue = TxFrame.queued [⟨0, .stop .estopInput, 0, false⟩] s.link.queue)) ∧
        (s.cfg.roles[i] = .estop → active = false → t.stopLatch = s.stopLatch ∧ t.rebroadcast = .stopped 0)) ∧
    (s.rebroadcast = .running since → u = s.passTo (since + 1000000) →
      (u.rebroadcast ≠ .running since → exec .reBroadcastTimerExpiry s = .next u) ∧
      (u.rebroadcast = .running since → s.active = true → u.HasRoom 1 →
        exec .reBroadcastTimerExpiry s = .next { u with
          rebroadcast := .running u.now
          link := u.link.withQueued [⟨0, .stop .rebroadcast, 0, false⟩] }))

/-- End contacts. Going active, whatever else the change sets going, a contact of a channel with a pulse input sets its position,
0 or Travel, and its referenced flag; going inactive it leaves both. On an input whose flag no interlock entry names: an
energized channel trips SENSOR where the other contact is active, or where the stow contact meets OUT; otherwise the contact of
its direction stops it into SETTLING, and the deploy contact meeting IN trips nothing, a driven channel taking the tests of its
new position. In every other state, and going inactive, a contact moves no channel's state (R158, R148, R163, R157). Pulses. A
pulse of a selected edge counts one in the kept direction, at most to the ends of the range, the other edge counts nothing. In
STARTING and RUNNING it restarts the stall timer where the channel is tested for stall; a channel that has then reached its
target enters STOPPING; one that is then inside its slow band at Full Speed fades to Slow Speed over Ramp Down (R130, R157, R162,
R145, R146, R147). Guards. Going active, a guard trips a moving channel, with reason GUARD where no interlock entry names its
flag, and acts on no other channel state; going inactive it has no effect (R164, R165). -/
def Obligations.ContactsPulsesAndGuardsAct : Prop :=
  ∀ (s : State) (i : InIx) (active : Bool) (m : MotIx) (w : Dir) (p : Int), s.Sound → s.built = true → (s.input i).filtered = !active →
    (s.cfg.roles[i] = (if w = .outward then .deployEnd m else .stowEnd m) →
      ∃ t, exec (.inputChangeAccepted i active) s = .next t ∧
        (active = true → s.hasPulse m = true →
          (t.mot m).referenced = true ∧ (t.mot m).position = if w = .outward then ((s.motCfg m).travel : Int) else 0) ∧
        (active = false ∨ s.hasPulse m = false →
          (t.mot m).referenced = (s.mot m).referenced ∧ (t.mot m).position = (s.mot m).position) ∧
        (s.flagNamed i.val = false →
          (active = false ∨ (s.mot m).state.isEnergized = false →
            t.mot m = { s.mot m with
              position := (t.mot m).position, referenced := (t.mot m).referenced, posture := t.derivePosture m } ∧
            t.claim m = s.claim m) ∧
          (active = true → (s.mot m).state.isEnergized = true →
            (s.roleActive (if w = .outward then .stowEnd m else .deployEnd m) = true ∨
                (w = .inward ∧ (s.mot m).direction = some .outward) →
              (t.mot m).state = .tripped ∧ (t.mot m).tripReason = some .sensor ∧ (t.mot m).outOn = false ∧
                (t.mot m).inOn = false ∧ (t.claim m).state = .none) ∧
            (s.roleActive (if w = .outward then .stowEnd m else .deployEnd m) = false → (s.mot m).direction = some w →
              t.mot m = { s.mot m with
                position := (t.mot m).position, referenced := (t.mot m).referenced
                state := .settling, holder := none, outOn := false, inOn := false, speed := 0, speedFade := none
                speedWaiting := 0, speedActive := 0, stallTimer := .stopped 0, deadTimer := .running s.now
                posture := if w = .outward then .deployed else .stowed } ∧ (t.claim m).state = .none) ∧
            (s.roleActive (.stowEnd m) = false → w = .outward → (s.mot m).direction = some .inward → s.HasRoom 1 →
              (¬ s.Reaches m (t.mot m).position →
                t.mot m = s.movedTo m (t.mot m).position (t.mot m).referenced ∧ t.claim m = s.claim m) ∧
              (s.Reaches m (t.mot m).position →
                t.mot m = s.stoppedAt m (t.mot m).position (t.mot m).referenced ∧ (t.claim m).state = .none))))) ∧
    (s.cfg.roles[i] = .pulse m →
      p = (if (s.motCfg m).edge = .both ∨ ((s.motCfg m).edge = .rising ∧ active = true) ∨
            ((s.motCfg m).edge = .falling ∧ active = false) then
          (match (s.mot m).direction with
            | some .outward => min 8388607 ((s.mot m).position + 1)
            | some .inward => max (-8388608) ((s.mot m).position - 1)
            | none => (s.mot m).position)
        else (s.mot m).position) →
      ∃ t, exec (.inputChangeAccepted i active) s = .next t ∧ (t.mot m).referenced = (s.mot m).referenced ∧
        (t.mot m).position = p ∧
        (s.flagNamed i.val = false →
          ((s.motCfg m).edge = (if active then .falling else .rising) → t.mots = s.mots ∧ t.claims = s.claims) ∧
          ((s.motCfg m).edge ≠ (if active then .falling else .rising) →
            ((s.mot m).state.isDriven = false →
              t.mot m = { s.mot m with position := p, posture := t.derivePosture m } ∧ t.claim m = s.claim m) ∧
            ((s.mot m).state.isDriven = true → s.HasRoom 1 →
              (¬ s.Reaches m p →
                t.mot m = { s.movedTo m p (s.mot m).referenced with
                  stallTimer := if 0 < (s.motCfg m).stallTime then .running s.now else (s.mot m).stallTimer } ∧
                t.claim m = s.claim m) ∧
              (s.Reaches m p →
                t.mot m = s.stoppedAt m p (s.mot m).referenced ∧ (t.claim m).state = .none))))) ∧
    (s.cfg.roles[i] = .guard m →
      ∃ t, exec (.inputChangeAccepted i active) s = .next t ∧
        (active = true → (s.mot m).state.isMoving = true → (t.mot m).state = .tripped) ∧
        (s.flagNamed i.val = false →
          (active = true → (s.mot m).state.isMoving = true →
            (t.claim m).state = .none ∧ t.mot m = { s.mot m with
              state := .tripped, tripReason := some .guard, holder := none, followOn := none, outOn := false, inOn := false
              speed := 0, speedFade := none, speedWaiting := 0, speedActive := 0, stallTimer := .stopped 0
              deadTimer := (t.mot m).deadTimer, posture := .fault }) ∧
          (active = false ∨ (s.mot m).state.isMoving = false → t.mots = s.mots ∧ t.claims = s.claims)))

/-- A KEY input whose bindings name other nodes: going active in LISTEN or READY it fires each of them in binding order, a
COMMAND frame with tag 8 + b at its level, and starts the HOLD repetition of those that are MOVE or HOME in HOLD-TO-RUN; going
inactive it ends each press, with a HALT for those. The frame carries as many of the stored argument bytes as Table 13-3 gives
for the verb; in byte 0 of a MOVE or HOME bit 1 is the binding's mode, and the bits that the table does not name are 0 (R122, R123,
R180, R181). That a verb the table lacks carries none is the model's reading (log 19), and so is that the unnamed bits of a CANCEL's
tag byte go as stored (log 36). A binding that names the own node is taken up without a frame: a lone FLAG binding sets its
soft flag (R106, R108). -/
def Obligations.KeysFireTheirBindings : Prop :=
  ∀ (s : State) (i : InIx) (sent : BindIx → List Byte), s.Sound → s.active = true → s.cfg.roles[i] = .key → s.flagNamed i.val = false → s.link.queue = [] →
    (∀ b : BindIx, (s.binding b).input = i → (s.binding b).target ≠ 0 → (s.binding b).args.length = 6) →
    (∀ b : BindIx, sent b = (match (s.binding b).kind, (s.binding b).verb with
      | 0, 1 => (s.binding b).args.take 4
      | 0, 2 => (s.binding b).args.take 4
      | 1, 1 => byteOf (byteAt (s.binding b).args 0 % 2 + (if (s.binding b).mode = .holdToRun then 2 else 0) +
          4 * (byteAt (s.binding b).args 0 / 4 % 4)) :: ((s.binding b).args.drop 1).take 3
      | 1, 2 => [if (s.binding b).mode = .holdToRun then 2 else 0]
      | 2, 1 => (s.binding b).args.take 2
      | 2, 2 => (s.binding b).args.take 1
      | _, _ => [])) →
    ((∀ b : BindIx, (s.binding b).input = i → (s.binding b).target ≠ s.cfg.ownId) → (s.input i).filtered = false →
      ∃ t, exec (.inputChangeAccepted i true) s = .next t ∧
        t = { s with inputs := t.inputs, pins := t.pins, presses := t.presses, pub := t.pub, link := t.link } ∧
        (∀ b : BindIx, t.press b = if (s.binding b).input = i ∧ (s.binding b).target ≠ 0 then
          ⟨true, if (s.binding b).HoldsToRun then some (s.now + 100000) else none⟩ else s.press b) ∧
        t.link.queue = TxFrame.queued (((List.finRange 8).filter (fun b => decide ((s.binding b).input = i ∧ (s.binding b).target ≠ 0))).map
          (fun b => s.bindFrame b (s.binding b).verb (s.binding b).wanted (sent b))) []) ∧
    ((∀ b : BindIx, (s.binding b).input = i → (s.binding b).target ≠ s.cfg.ownId) → (s.input i).filtered = true →
      ∃ t, exec (.inputChangeAccepted i false) s = .next t ∧
        t = { s with inputs := t.inputs, pins := t.pins, presses := t.presses, pub := t.pub, link := t.link } ∧
        (∀ b : BindIx, t.press b = if (s.binding b).input = i ∧ (s.binding b).target ≠ 0 ∧ (s.press b).pressed = true then ⟨false, none⟩ else s.press b) ∧
        t.link.queue = TxFrame.queued (((List.finRange 8).filter (fun b => decide ((s.binding b).input = i ∧ (s.binding b).target ≠ 0 ∧ (s.press b).pressed = true ∧ (s.binding b).HoldsToRun))).map
          (fun b => s.bindFrame b 4 (s.binding b).wanted [])) []) ∧
    (∀ b : BindIx, ∀ k : Fin 4, (∀ x : BindIx, (s.binding x).input = i ↔ x = b) → (s.binding b).target = s.cfg.ownId → s.cfg.ownId ≠ 0 →
      (s.binding b).kind = 2 → (s.binding b).verb = 1 → byteAt (s.binding b).args 0 = 16 + k.val →
      (s.input i).filtered = false →
      ∃ t, exec (.inputChangeAccepted i true) s = .next t ∧ t.softFlags = s.softFlags.set k (decide (byteAt (s.binding b).args 1 ≠ 0)) ∧
        (t.press b).pressed = true ∧ (s.AtRest → t.link.queue = []))

/-- HOLD_REPETITION produces a HOLD with the binding's tag, level and channel, answer wanted clear: a frame to another node; taken
up locally where the binding names the own node, which then refreshes the HOLD-TO-RUN commands it holds of its own id and that
tag. A repetition that the input's release before that moment has ended has no event. An ANSWER to the own id with outcome
REFUSED, DISPLACED, EXPIRED or CANCELLED for a pressed binding's tag stops its repetition; any other ANSWER has no effect (R123,
R121, R113, R106). That the next HOLD falls 100 ms after the due moment of this one, however late it is run, is the model's
reading (log 33). That a timer's command brings the clock to the moment it falls due is the model's choice (log 2). -/
def Obligations.RepetitionRunsUntilAnAnswerEndsIt : Prop :=
  ∀ (s u : State) (f : Frame) (b : BindIx) (due : Nat),
    ((s.press b).nextHold = some due → s.active = true → u = s.passTo due →
      ((u.press b).nextHold ≠ some due → exec (.holdRepetition b) s = .next u) ∧
      ((u.press b).nextHold = some due → (s.binding b).target ≠ s.cfg.ownId → u.HasRoom 1 →
        exec (.holdRepetition b) s = .next { u with
          presses := u.presses.set b { u.press b with nextHold := some (due + 100000) }
          link := u.link.withQueued [⟨(s.binding b).level, .command [byteOf (s.binding b).target.val, byteOf (8 + b.val), byteOf ((s.binding b).index + 16 * (s.binding b).kind), 3#8], 0, false⟩] }) ∧
      ((u.press b).nextHold = some due → (s.binding b).target = s.cfg.ownId → (s.binding b).kind = 1 →
        exec (.holdRepetition b) s = .next { u with
          presses := u.presses.set b { u.press b with nextHold := some (due + 100000) }
          mots := Vector.ofFn (fun m => { u.mot m with
            holder := (u.mot m).holder.map (fun h => if h.cmd.origin = s.cfg.ownId ∧ h.cmd.tag = 8 + b.val ∧ h.cmd.mode = .holdToRun ∧ (s.motCfg m).localHold = false then { h with deadline := some (u.now + 350000) } else h)
            followOn := (u.mot m).followOn.map (fun h => if h.cmd.origin = s.cfg.ownId ∧ h.cmd.tag = 8 + b.val ∧ h.cmd.mode = .holdToRun ∧ (s.motCfg m).localHold = false then { h with deadline := some (u.now + 350000) } else h) })
          motionQueue := u.motionQueue.map (fun e => if e.named s.cfg.ownId (8 + b.val) = true ∧ e.cmd.mode = .holdToRun then { e with deadline := u.now + 350000 } else e) })) ∧
    (s.Hears .answer f →
      (idField (byteAt f.payload 0) = s.cfg.ownId → byteAt f.payload 1 % 16 = 8 + b.val → 2 ≤ byteAt f.payload 2 → byteAt f.payload 2 ≤ 5 →
        (s.press b).pressed = true →
        exec (.answerArrival f) s = .next { s with presses := s.presses.set b { s.press b with nextHold := none } }) ∧
      (idField (byteAt f.payload 0) ≠ s.cfg.ownId ∨ byteAt f.payload 1 % 16 < 8 ∨ byteAt f.payload 2 < 2 ∨ 5 < byteAt f.payload 2 ∨
          (byteAt f.payload 1 % 16 = 8 + b.val ∧ (s.press b).pressed = false) →
        exec (.answerArrival f) s = .next s))
end

