-- ==== Sys2Proof/Laws/State.lean ====
section
/-! SUPPORT. The small lemmas of the state: one for each field and each update of one record, true by rfl, and the
records themselves after an update. -/

namespace Sys2Proof.Machine

/-! ## modSeg -/

section Modseg

variable (s : State) (g : SegIx) (f : Segment → Segment)

@[simp] theorem State.modSeg_now : (s.modSeg g f).now = s.now := rfl
@[simp] theorem State.modSeg_choices : (s.modSeg g f).choices = s.choices := rfl
@[simp] theorem State.modSeg_mode : (s.modSeg g f).mode = s.mode := rfl
@[simp] theorem State.modSeg_resetLow : (s.modSeg g f).resetLow = s.resetLow := rfl
@[simp] theorem State.modSeg_faultOut : (s.modSeg g f).faultOut = s.faultOut := rfl
@[simp] theorem State.modSeg_listenTimer : (s.modSeg g f).listenTimer = s.listenTimer := rfl
@[simp] theorem State.modSeg_cfg : (s.modSeg g f).cfg = s.cfg := rfl
@[simp] theorem State.modSeg_link : (s.modSeg g f).link = s.link := rfl
@[simp] theorem State.modSeg_peers : (s.modSeg g f).peers = s.peers := rfl
@[simp] theorem State.modSeg_pub : (s.modSeg g f).pub = s.pub := rfl
@[simp] theorem State.modSeg_foreign : (s.modSeg g f).foreign = s.foreign := rfl
@[simp] theorem State.modSeg_saturated : (s.modSeg g f).saturated = s.saturated := rfl
@[simp] theorem State.modSeg_claims : (s.modSeg g f).claims = s.claims := rfl
@[simp] theorem State.modSeg_dims : (s.modSeg g f).dims = s.dims := rfl
@[simp] theorem State.modSeg_scenes : (s.modSeg g f).scenes = s.scenes := rfl
@[simp] theorem State.modSeg_partialCue : (s.modSeg g f).partialCue = s.partialCue := rfl
@[simp] theorem State.modSeg_motionQueue : (s.modSeg g f).motionQueue = s.motionQueue := rfl
@[simp] theorem State.modSeg_softFlags : (s.modSeg g f).softFlags = s.softFlags := rfl
@[simp] theorem State.modSeg_presses : (s.modSeg g f).presses = s.presses := rfl
@[simp] theorem State.modSeg_inputs : (s.modSeg g f).inputs = s.inputs := rfl
@[simp] theorem State.modSeg_pins : (s.modSeg g f).pins = s.pins := rfl
@[simp] theorem State.modSeg_sense : (s.modSeg g f).sense = s.sense := rfl
@[simp] theorem State.modSeg_mots : (s.modSeg g f).mots = s.mots := rfl
@[simp] theorem State.modSeg_stopLatch : (s.modSeg g f).stopLatch = s.stopLatch := rfl
@[simp] theorem State.modSeg_rebroadcast : (s.modSeg g f).rebroadcast = s.rebroadcast := rfl
@[simp] theorem State.modSeg_fadeTimer : (s.modSeg g f).fadeTimer = s.fadeTimer := rfl
@[simp] theorem State.modSeg_sampleTimer : (s.modSeg g f).sampleTimer = s.sampleTimer := rfl
@[simp] theorem State.modSeg_inputTimer : (s.modSeg g f).inputTimer = s.inputTimer := rfl
@[simp] theorem State.modSeg_pending : (s.modSeg g f).pending = s.pending := rfl
@[simp] theorem State.modSeg_dim : (s.modSeg g f).dim = s.dim := rfl
@[simp] theorem State.modSeg_mot : (s.modSeg g f).mot = s.mot := rfl
@[simp] theorem State.modSeg_claim : (s.modSeg g f).claim = s.claim := rfl
@[simp] theorem State.modSeg_peer : (s.modSeg g f).peer = s.peer := rfl
@[simp] theorem State.modSeg_input : (s.modSeg g f).input = s.input := rfl
@[simp] theorem State.modSeg_press : (s.modSeg g f).press = s.press := rfl
@[simp] theorem State.modSeg_segCfg : (s.modSeg g f).segCfg = s.segCfg := rfl
@[simp] theorem State.modSeg_dimCfg : (s.modSeg g f).dimCfg = s.dimCfg := rfl
@[simp] theorem State.modSeg_motCfg : (s.modSeg g f).motCfg = s.motCfg := rfl
@[simp] theorem State.modSeg_binding : (s.modSeg g f).binding = s.binding := rfl
@[simp] theorem State.modSeg_same : (s.modSeg g f).seg g = f (s.seg g) := by
  simp [State.modSeg, State.seg]
theorem State.modSeg_other (k : SegIx) (h : k ≠ g) : (s.modSeg g f).seg k = s.seg k := by
  have hk : (g : Nat) ≠ k := fun e => h (Fin.ext e.symm)
  simp [State.modSeg, State.seg, hk]
theorem State.modSeg_get (k : SegIx) : (s.modSeg g f).seg k = if k = g then f (s.seg k) else s.seg k := by
  by_cases h : k = g
  · subst h; simp
  · simp [State.modSeg_other, h]

end Modseg

/-! ## modDim -/

section Moddim

variable (s : State) (d : DimIx) (f : DimmerCh → DimmerCh)

@[simp] theorem State.modDim_now : (s.modDim d f).now = s.now := rfl
@[simp] theorem State.modDim_choices : (s.modDim d f).choices = s.choices := rfl
@[simp] theorem State.modDim_mode : (s.modDim d f).mode = s.mode := rfl
@[simp] theorem State.modDim_resetLow : (s.modDim d f).resetLow = s.resetLow := rfl
@[simp] theorem State.modDim_faultOut : (s.modDim d f).faultOut = s.faultOut := rfl
@[simp] theorem State.modDim_listenTimer : (s.modDim d f).listenTimer = s.listenTimer := rfl
@[simp] theorem State.modDim_cfg : (s.modDim d f).cfg = s.cfg := rfl
@[simp] theorem State.modDim_link : (s.modDim d f).link = s.link := rfl
@[simp] theorem State.modDim_peers : (s.modDim d f).peers = s.peers := rfl
@[simp] theorem State.modDim_pub : (s.modDim d f).pub = s.pub := rfl
@[simp] theorem State.modDim_segs : (s.modDim d f).segs = s.segs := rfl
@[simp] theorem State.modDim_foreign : (s.modDim d f).foreign = s.foreign := rfl
@[simp] theorem State.modDim_saturated : (s.modDim d f).saturated = s.saturated := rfl
@[simp] theorem State.modDim_claims : (s.modDim d f).claims = s.claims := rfl
@[simp] theorem State.modDim_scenes : (s.modDim d f).scenes = s.scenes := rfl
@[simp] theorem State.modDim_partialCue : (s.modDim d f).partialCue = s.partialCue := rfl
@[simp] theorem State.modDim_motionQueue : (s.modDim d f).motionQueue = s.motionQueue := rfl
@[simp] theorem State.modDim_softFlags : (s.modDim d f).softFlags = s.softFlags := rfl
@[simp] theorem State.modDim_presses : (s.modDim d f).presses = s.presses := rfl
@[simp] theorem State.modDim_inputs : (s.modDim d f).inputs = s.inputs := rfl
@[simp] theorem State.modDim_pins : (s.modDim d f).pins = s.pins := rfl
@[simp] theorem State.modDim_sense : (s.modDim d f).sense = s.sense := rfl
@[simp] theorem State.modDim_mots : (s.modDim d f).mots = s.mots := rfl
@[simp] theorem State.modDim_stopLatch : (s.modDim d f).stopLatch = s.stopLatch := rfl
@[simp] theorem State.modDim_rebroadcast : (s.modDim d f).rebroadcast = s.rebroadcast := rfl
@[simp] theorem State.modDim_fadeTimer : (s.modDim d f).fadeTimer = s.fadeTimer := rfl
@[simp] theorem State.modDim_sampleTimer : (s.modDim d f).sampleTimer = s.sampleTimer := rfl
@[simp] theorem State.modDim_inputTimer : (s.modDim d f).inputTimer = s.inputTimer := rfl
@[simp] theorem State.modDim_pending : (s.modDim d f).pending = s.pending := rfl
@[simp] theorem State.modDim_seg : (s.modDim d f).seg = s.seg := rfl
@[simp] theorem State.modDim_mot : (s.modDim d f).mot = s.mot := rfl
@[simp] theorem State.modDim_claim : (s.modDim d f).claim = s.claim := rfl
@[simp] theorem State.modDim_peer : (s.modDim d f).peer = s.peer := rfl
@[simp] theorem State.modDim_input : (s.modDim d f).input = s.input := rfl
@[simp] theorem State.modDim_press : (s.modDim d f).press = s.press := rfl
@[simp] theorem State.modDim_segCfg : (s.modDim d f).segCfg = s.segCfg := rfl
@[simp] theorem State.modDim_dimCfg : (s.modDim d f).dimCfg = s.dimCfg := rfl
@[simp] theorem State.modDim_motCfg : (s.modDim d f).motCfg = s.motCfg := rfl
@[simp] theorem State.modDim_binding : (s.modDim d f).binding = s.binding := rfl
@[simp] theorem State.modDim_same : (s.modDim d f).dim d = f (s.dim d) := by
  simp [State.modDim, State.dim]
theorem State.modDim_other (k : DimIx) (h : k ≠ d) : (s.modDim d f).dim k = s.dim k := by
  have hk : (d : Nat) ≠ k := fun e => h (Fin.ext e.symm)
  simp [State.modDim, State.dim, hk]
theorem State.modDim_get (k : DimIx) : (s.modDim d f).dim k = if k = d then f (s.dim k) else s.dim k := by
  by_cases h : k = d
  · subst h; simp
  · simp [State.modDim_other, h]

end Moddim

/-! ## modMot -/

section Modmot

variable (s : State) (m : MotIx) (f : MotionCh → MotionCh)

@[simp] theorem State.modMot_now : (s.modMot m f).now = s.now := rfl
@[simp] theorem State.modMot_choices : (s.modMot m f).choices = s.choices := rfl
@[simp] theorem State.modMot_mode : (s.modMot m f).mode = s.mode := rfl
@[simp] theorem State.modMot_resetLow : (s.modMot m f).resetLow = s.resetLow := rfl
@[simp] theorem State.modMot_faultOut : (s.modMot m f).faultOut = s.faultOut := rfl
@[simp] theorem State.modMot_listenTimer : (s.modMot m f).listenTimer = s.listenTimer := rfl
@[simp] theorem State.modMot_cfg : (s.modMot m f).cfg = s.cfg := rfl
@[simp] theorem State.modMot_link : (s.modMot m f).link = s.link := rfl
@[simp] theorem State.modMot_peers : (s.modMot m f).peers = s.peers := rfl
@[simp] theorem State.modMot_pub : (s.modMot m f).pub = s.pub := rfl
@[simp] theorem State.modMot_segs : (s.modMot m f).segs = s.segs := rfl
@[simp] theorem State.modMot_foreign : (s.modMot m f).foreign = s.foreign := rfl
@[simp] theorem State.modMot_saturated : (s.modMot m f).saturated = s.saturated := rfl
@[simp] theorem State.modMot_claims : (s.modMot m f).claims = s.claims := rfl
@[simp] theorem State.modMot_dims : (s.modMot m f).dims = s.dims := rfl
@[simp] theorem State.modMot_scenes : (s.modMot m f).scenes = s.scenes := rfl
@[simp] theorem State.modMot_partialCue : (s.modMot m f).partialCue = s.partialCue := rfl
@[simp] theorem State.modMot_motionQueue : (s.modMot m f).motionQueue = s.motionQueue := rfl
@[simp] theorem State.modMot_softFlags : (s.modMot m f).softFlags = s.softFlags := rfl
@[simp] theorem State.modMot_presses : (s.modMot m f).presses = s.presses := rfl
@[simp] theorem State.modMot_inputs : (s.modMot m f).inputs = s.inputs := rfl
@[simp] theorem State.modMot_pins : (s.modMot m f).pins = s.pins := rfl
@[simp] theorem State.modMot_sense : (s.modMot m f).sense = s.sense := rfl
@[simp] theorem State.modMot_stopLatch : (s.modMot m f).stopLatch = s.stopLatch := rfl
@[simp] theorem State.modMot_rebroadcast : (s.modMot m f).rebroadcast = s.rebroadcast := rfl
@[simp] theorem State.modMot_fadeTimer : (s.modMot m f).fadeTimer = s.fadeTimer := rfl
@[simp] theorem State.modMot_sampleTimer : (s.modMot m f).sampleTimer = s.sampleTimer := rfl
@[simp] theorem State.modMot_inputTimer : (s.modMot m f).inputTimer = s.inputTimer := rfl
@[simp] theorem State.modMot_pending : (s.modMot m f).pending = s.pending := rfl
@[simp] theorem State.modMot_seg : (s.modMot m f).seg = s.seg := rfl
@[simp] theorem State.modMot_dim : (s.modMot m f).dim = s.dim := rfl
@[simp] theorem State.modMot_claim : (s.modMot m f).claim = s.claim := rfl
@[simp] theorem State.modMot_peer : (s.modMot m f).peer = s.peer := rfl
@[simp] theorem State.modMot_input : (s.modMot m f).input = s.input := rfl
@[simp] theorem State.modMot_press : (s.modMot m f).press = s.press := rfl
@[simp] theorem State.modMot_segCfg : (s.modMot m f).segCfg = s.segCfg := rfl
@[simp] theorem State.modMot_dimCfg : (s.modMot m f).dimCfg = s.dimCfg := rfl
@[simp] theorem State.modMot_motCfg : (s.modMot m f).motCfg = s.motCfg := rfl
@[simp] theorem State.modMot_binding : (s.modMot m f).binding = s.binding := rfl
@[simp] theorem State.modMot_same : (s.modMot m f).mot m = f (s.mot m) := by
  simp [State.modMot, State.mot]
theorem State.modMot_other (k : MotIx) (h : k ≠ m) : (s.modMot m f).mot k = s.mot k := by
  have hk : (m : Nat) ≠ k := fun e => h (Fin.ext e.symm)
  simp [State.modMot, State.mot, hk]
theorem State.modMot_get (k : MotIx) : (s.modMot m f).mot k = if k = m then f (s.mot k) else s.mot k := by
  by_cases h : k = m
  · subst h; simp
  · simp [State.modMot_other, h]

end Modmot

/-! ## modClaim -/

section Modclaim

variable (s : State) (m : MotIx) (f : OwnClaim → OwnClaim)

@[simp] theorem State.modClaim_now : (s.modClaim m f).now = s.now := rfl
@[simp] theorem State.modClaim_choices : (s.modClaim m f).choices = s.choices := rfl
@[simp] theorem State.modClaim_mode : (s.modClaim m f).mode = s.mode := rfl
@[simp] theorem State.modClaim_resetLow : (s.modClaim m f).resetLow = s.resetLow := rfl
@[simp] theorem State.modClaim_faultOut : (s.modClaim m f).faultOut = s.faultOut := rfl
@[simp] theorem State.modClaim_listenTimer : (s.modClaim m f).listenTimer = s.listenTimer := rfl
@[simp] theorem State.modClaim_cfg : (s.modClaim m f).cfg = s.cfg := rfl
@[simp] theorem State.modClaim_link : (s.modClaim m f).link = s.link := rfl
@[simp] theorem State.modClaim_peers : (s.modClaim m f).peers = s.peers := rfl
@[simp] theorem State.modClaim_pub : (s.modClaim m f).pub = s.pub := rfl
@[simp] theorem State.modClaim_segs : (s.modClaim m f).segs = s.segs := rfl
@[simp] theorem State.modClaim_foreign : (s.modClaim m f).foreign = s.foreign := rfl
@[simp] theorem State.modClaim_saturated : (s.modClaim m f).saturated = s.saturated := rfl
@[simp] theorem State.modClaim_dims : (s.modClaim m f).dims = s.dims := rfl
@[simp] theorem State.modClaim_scenes : (s.modClaim m f).scenes = s.scenes := rfl
@[simp] theorem State.modClaim_partialCue : (s.modClaim m f).partialCue = s.partialCue := rfl
@[simp] theorem State.modClaim_motionQueue : (s.modClaim m f).motionQueue = s.motionQueue := rfl
@[simp] theorem State.modClaim_softFlags : (s.modClaim m f).softFlags = s.softFlags := rfl
@[simp] theorem State.modClaim_presses : (s.modClaim m f).presses = s.presses := rfl
@[simp] theorem State.modClaim_inputs : (s.modClaim m f).inputs = s.inputs := rfl
@[simp] theorem State.modClaim_pins : (s.modClaim m f).pins = s.pins := rfl
@[simp] theorem State.modClaim_sense : (s.modClaim m f).sense = s.sense := rfl
@[simp] theorem State.modClaim_mots : (s.modClaim m f).mots = s.mots := rfl
@[simp] theorem State.modClaim_stopLatch : (s.modClaim m f).stopLatch = s.stopLatch := rfl
@[simp] theorem State.modClaim_rebroadcast : (s.modClaim m f).rebroadcast = s.rebroadcast := rfl
@[simp] theorem State.modClaim_fadeTimer : (s.modClaim m f).fadeTimer = s.fadeTimer := rfl
@[simp] theorem State.modClaim_sampleTimer : (s.modClaim m f).sampleTimer = s.sampleTimer := rfl
@[simp] theorem State.modClaim_inputTimer : (s.modClaim m f).inputTimer = s.inputTimer := rfl
@[simp] theorem State.modClaim_pending : (s.modClaim m f).pending = s.pending := rfl
@[simp] theorem State.modClaim_seg : (s.modClaim m f).seg = s.seg := rfl
@[simp] theorem State.modClaim_dim : (s.modClaim m f).dim = s.dim := rfl
@[simp] theorem State.modClaim_mot : (s.modClaim m f).mot = s.mot := rfl
@[simp] theorem State.modClaim_peer : (s.modClaim m f).peer = s.peer := rfl
@[simp] theorem State.modClaim_input : (s.modClaim m f).input = s.input := rfl
@[simp] theorem State.modClaim_press : (s.modClaim m f).press = s.press := rfl
@[simp] theorem State.modClaim_segCfg : (s.modClaim m f).segCfg = s.segCfg := rfl
@[simp] theorem State.modClaim_dimCfg : (s.modClaim m f).dimCfg = s.dimCfg := rfl
@[simp] theorem State.modClaim_motCfg : (s.modClaim m f).motCfg = s.motCfg := rfl
@[simp] theorem State.modClaim_binding : (s.modClaim m f).binding = s.binding := rfl
@[simp] theorem State.modClaim_same : (s.modClaim m f).claim m = f (s.claim m) := by
  simp [State.modClaim, State.claim]
theorem State.modClaim_other (k : MotIx) (h : k ≠ m) : (s.modClaim m f).claim k = s.claim k := by
  have hk : (m : Nat) ≠ k := fun e => h (Fin.ext e.symm)
  simp [State.modClaim, State.claim, hk]
theorem State.modClaim_get (k : MotIx) : (s.modClaim m f).claim k = if k = m then f (s.claim k) else s.claim k := by
  by_cases h : k = m
  · subst h; simp
  · simp [State.modClaim_other, h]

end Modclaim

/-! ## modPeer -/

section Modpeer

variable (s : State) (n : NodeId) (f : PeerEntry → PeerEntry)

@[simp] theorem State.modPeer_now : (s.modPeer n f).now = s.now := rfl
@[simp] theorem State.modPeer_choices : (s.modPeer n f).choices = s.choices := rfl
@[simp] theorem State.modPeer_mode : (s.modPeer n f).mode = s.mode := rfl
@[simp] theorem State.modPeer_resetLow : (s.modPeer n f).resetLow = s.resetLow := rfl
@[simp] theorem State.modPeer_faultOut : (s.modPeer n f).faultOut = s.faultOut := rfl
@[simp] theorem State.modPeer_listenTimer : (s.modPeer n f).listenTimer = s.listenTimer := rfl
@[simp] theorem State.modPeer_cfg : (s.modPeer n f).cfg = s.cfg := rfl
@[simp] theorem State.modPeer_link : (s.modPeer n f).link = s.link := rfl
@[simp] theorem State.modPeer_pub : (s.modPeer n f).pub = s.pub := rfl
@[simp] theorem State.modPeer_segs : (s.modPeer n f).segs = s.segs := rfl
@[simp] theorem State.modPeer_foreign : (s.modPeer n f).foreign = s.foreign := rfl
@[simp] theorem State.modPeer_saturated : (s.modPeer n f).saturated = s.saturated := rfl
@[simp] theorem State.modPeer_claims : (s.modPeer n f).claims = s.claims := rfl
@[simp] theorem State.modPeer_dims : (s.modPeer n f).dims = s.dims := rfl
@[simp] theorem State.modPeer_scenes : (s.modPeer n f).scenes = s.scenes := rfl
@[simp] theorem State.modPeer_partialCue : (s.modPeer n f).partialCue = s.partialCue := rfl
@[simp] theorem State.modPeer_motionQueue : (s.modPeer n f).motionQueue = s.motionQueue := rfl
@[simp] theorem State.modPeer_softFlags : (s.modPeer n f).softFlags = s.softFlags := rfl
@[simp] theorem State.modPeer_presses : (s.modPeer n f).presses = s.presses := rfl
@[simp] theorem State.modPeer_inputs : (s.modPeer n f).inputs = s.inputs := rfl
@[simp] theorem State.modPeer_pins : (s.modPeer n f).pins = s.pins := rfl
@[simp] theorem State.modPeer_sense : (s.modPeer n f).sense = s.sense := rfl
@[simp] theorem State.modPeer_mots : (s.modPeer n f).mots = s.mots := rfl
@[simp] theorem State.modPeer_stopLatch : (s.modPeer n f).stopLatch = s.stopLatch := rfl
@[simp] theorem State.modPeer_rebroadcast : (s.modPeer n f).rebroadcast = s.rebroadcast := rfl
@[simp] theorem State.modPeer_fadeTimer : (s.modPeer n f).fadeTimer = s.fadeTimer := rfl
@[simp] theorem State.modPeer_sampleTimer : (s.modPeer n f).sampleTimer = s.sampleTimer := rfl
@[simp] theorem State.modPeer_inputTimer : (s.modPeer n f).inputTimer = s.inputTimer := rfl
@[simp] theorem State.modPeer_pending : (s.modPeer n f).pending = s.pending := rfl
@[simp] theorem State.modPeer_seg : (s.modPeer n f).seg = s.seg := rfl
@[simp] theorem State.modPeer_dim : (s.modPeer n f).dim = s.dim := rfl
@[simp] theorem State.modPeer_mot : (s.modPeer n f).mot = s.mot := rfl
@[simp] theorem State.modPeer_claim : (s.modPeer n f).claim = s.claim := rfl
@[simp] theorem State.modPeer_input : (s.modPeer n f).input = s.input := rfl
@[simp] theorem State.modPeer_press : (s.modPeer n f).press = s.press := rfl
@[simp] theorem State.modPeer_segCfg : (s.modPeer n f).segCfg = s.segCfg := rfl
@[simp] theorem State.modPeer_dimCfg : (s.modPeer n f).dimCfg = s.dimCfg := rfl
@[simp] theorem State.modPeer_motCfg : (s.modPeer n f).motCfg = s.motCfg := rfl
@[simp] theorem State.modPeer_binding : (s.modPeer n f).binding = s.binding := rfl
@[simp] theorem State.modPeer_same : (s.modPeer n f).peer n = f (s.peer n) := by
  simp [State.modPeer, State.peer]
theorem State.modPeer_other (k : NodeId) (h : k ≠ n) : (s.modPeer n f).peer k = s.peer k := by
  have hk : (n : Nat) ≠ k := fun e => h (Fin.ext e.symm)
  simp [State.modPeer, State.peer, hk]
theorem State.modPeer_get (k : NodeId) : (s.modPeer n f).peer k = if k = n then f (s.peer k) else s.peer k := by
  by_cases h : k = n
  · subst h; simp
  · simp [State.modPeer_other, h]

end Modpeer

/-! ## modInput -/

section Modinput

variable (s : State) (i : InIx) (f : InputRec → InputRec)

@[simp] theorem State.modInput_now : (s.modInput i f).now = s.now := rfl
@[simp] theorem State.modInput_choices : (s.modInput i f).choices = s.choices := rfl
@[simp] theorem State.modInput_mode : (s.modInput i f).mode = s.mode := rfl
@[simp] theorem State.modInput_resetLow : (s.modInput i f).resetLow = s.resetLow := rfl
@[simp] theorem State.modInput_faultOut : (s.modInput i f).faultOut = s.faultOut := rfl
@[simp] theorem State.modInput_listenTimer : (s.modInput i f).listenTimer = s.listenTimer := rfl
@[simp] theorem State.modInput_cfg : (s.modInput i f).cfg = s.cfg := rfl
@[simp] theorem State.modInput_link : (s.modInput i f).link = s.link := rfl
@[simp] theorem State.modInput_peers : (s.modInput i f).peers = s.peers := rfl
@[simp] theorem State.modInput_pub : (s.modInput i f).pub = s.pub := rfl
@[simp] theorem State.modInput_segs : (s.modInput i f).segs = s.segs := rfl
@[simp] theorem State.modInput_foreign : (s.modInput i f).foreign = s.foreign := rfl
@[simp] theorem State.modInput_saturated : (s.modInput i f).saturated = s.saturated := rfl
@[simp] theorem State.modInput_claims : (s.modInput i f).claims = s.claims := rfl
@[simp] theorem State.modInput_dims : (s.modInput i f).dims = s.dims := rfl
@[simp] theorem State.modInput_scenes : (s.modInput i f).scenes = s.scenes := rfl
@[simp] theorem State.modInput_partialCue : (s.modInput i f).partialCue = s.partialCue := rfl
@[simp] theorem State.modInput_motionQueue : (s.modInput i f).motionQueue = s.motionQueue := rfl
@[simp] theorem State.modInput_softFlags : (s.modInput i f).softFlags = s.softFlags := rfl
@[simp] theorem State.modInput_presses : (s.modInput i f).presses = s.presses := rfl
@[simp] theorem State.modInput_pins : (s.modInput i f).pins = s.pins := rfl
@[simp] theorem State.modInput_sense : (s.modInput i f).sense = s.sense := rfl
@[simp] theorem State.modInput_mots : (s.modInput i f).mots = s.mots := rfl
@[simp] theorem State.modInput_stopLatch : (s.modInput i f).stopLatch = s.stopLatch := rfl
@[simp] theorem State.modInput_rebroadcast : (s.modInput i f).rebroadcast = s.rebroadcast := rfl
@[simp] theorem State.modInput_fadeTimer : (s.modInput i f).fadeTimer = s.fadeTimer := rfl
@[simp] theorem State.modInput_sampleTimer : (s.modInput i f).sampleTimer = s.sampleTimer := rfl
@[simp] theorem State.modInput_inputTimer : (s.modInput i f).inputTimer = s.inputTimer := rfl
@[simp] theorem State.modInput_pending : (s.modInput i f).pending = s.pending := rfl
@[simp] theorem State.modInput_seg : (s.modInput i f).seg = s.seg := rfl
@[simp] theorem State.modInput_dim : (s.modInput i f).dim = s.dim := rfl
@[simp] theorem State.modInput_mot : (s.modInput i f).mot = s.mot := rfl
@[simp] theorem State.modInput_claim : (s.modInput i f).claim = s.claim := rfl
@[simp] theorem State.modInput_peer : (s.modInput i f).peer = s.peer := rfl
@[simp] theorem State.modInput_press : (s.modInput i f).press = s.press := rfl
@[simp] theorem State.modInput_segCfg : (s.modInput i f).segCfg = s.segCfg := rfl
@[simp] theorem State.modInput_dimCfg : (s.modInput i f).dimCfg = s.dimCfg := rfl
@[simp] theorem State.modInput_motCfg : (s.modInput i f).motCfg = s.motCfg := rfl
@[simp] theorem State.modInput_binding : (s.modInput i f).binding = s.binding := rfl
@[simp] theorem State.modInput_same : (s.modInput i f).input i = f (s.input i) := by
  simp [State.modInput, State.input]
theorem State.modInput_other (k : InIx) (h : k ≠ i) : (s.modInput i f).input k = s.input k := by
  have hk : (i : Nat) ≠ k := fun e => h (Fin.ext e.symm)
  simp [State.modInput, State.input, hk]
theorem State.modInput_get (k : InIx) : (s.modInput i f).input k = if k = i then f (s.input k) else s.input k := by
  by_cases h : k = i
  · subst h; simp
  · simp [State.modInput_other, h]

end Modinput

/-! ## modPress -/

section Modpress

variable (s : State) (b : BindIx) (f : Press → Press)

@[simp] theorem State.modPress_now : (s.modPress b f).now = s.now := rfl
@[simp] theorem State.modPress_choices : (s.modPress b f).choices = s.choices := rfl
@[simp] theorem State.modPress_mode : (s.modPress b f).mode = s.mode := rfl
@[simp] theorem State.modPress_resetLow : (s.modPress b f).resetLow = s.resetLow := rfl
@[simp] theorem State.modPress_faultOut : (s.modPress b f).faultOut = s.faultOut := rfl
@[simp] theorem State.modPress_listenTimer : (s.modPress b f).listenTimer = s.listenTimer := rfl
@[simp] theorem State.modPress_cfg : (s.modPress b f).cfg = s.cfg := rfl
@[simp] theorem State.modPress_link : (s.modPress b f).link = s.link := rfl
@[simp] theorem State.modPress_peers : (s.modPress b f).peers = s.peers := rfl
@[simp] theorem State.modPress_pub : (s.modPress b f).pub = s.pub := rfl
@[simp] theorem State.modPress_segs : (s.modPress b f).segs = s.segs := rfl
@[simp] theorem State.modPress_foreign : (s.modPress b f).foreign = s.foreign := rfl
@[simp] theorem State.modPress_saturated : (s.modPress b f).saturated = s.saturated := rfl
@[simp] theorem State.modPress_claims : (s.modPress b f).claims = s.claims := rfl
@[simp] theorem State.modPress_dims : (s.modPress b f).dims = s.dims := rfl
@[simp] theorem State.modPress_scenes : (s.modPress b f).scenes = s.scenes := rfl
@[simp] theorem State.modPress_partialCue : (s.modPress b f).partialCue = s.partialCue := rfl
@[simp] theorem State.modPress_motionQueue : (s.modPress b f).motionQueue = s.motionQueue := rfl
@[simp] theorem State.modPress_softFlags : (s.modPress b f).softFlags = s.softFlags := rfl
@[simp] theorem State.modPress_inputs : (s.modPress b f).inputs = s.inputs := rfl
@[simp] theorem State.modPress_pins : (s.modPress b f).pins = s.pins := rfl
@[simp] theorem State.modPress_sense : (s.modPress b f).sense = s.sense := rfl
@[simp] theorem State.modPress_mots : (s.modPress b f).mots = s.mots := rfl
@[simp] theorem State.modPress_stopLatch : (s.modPress b f).stopLatch = s.stopLatch := rfl
@[simp] theorem State.modPress_rebroadcast : (s.modPress b f).rebroadcast = s.rebroadcast := rfl
@[simp] theorem State.modPress_fadeTimer : (s.modPress b f).fadeTimer = s.fadeTimer := rfl
@[simp] theorem State.modPress_sampleTimer : (s.modPress b f).sampleTimer = s.sampleTimer := rfl
@[simp] theorem State.modPress_inputTimer : (s.modPress b f).inputTimer = s.inputTimer := rfl
@[simp] theorem State.modPress_pending : (s.modPress b f).pending = s.pending := rfl
@[simp] theorem State.modPress_seg : (s.modPress b f).seg = s.seg := rfl
@[simp] theorem State.modPress_dim : (s.modPress b f).dim = s.dim := rfl
@[simp] theorem State.modPress_mot : (s.modPress b f).mot = s.mot := rfl
@[simp] theorem State.modPress_claim : (s.modPress b f).claim = s.claim := rfl
@[simp] theorem State.modPress_peer : (s.modPress b f).peer = s.peer := rfl
@[simp] theorem State.modPress_input : (s.modPress b f).input = s.input := rfl
@[simp] theorem State.modPress_segCfg : (s.modPress b f).segCfg = s.segCfg := rfl
@[simp] theorem State.modPress_dimCfg : (s.modPress b f).dimCfg = s.dimCfg := rfl
@[simp] theorem State.modPress_motCfg : (s.modPress b f).motCfg = s.motCfg := rfl
@[simp] theorem State.modPress_binding : (s.modPress b f).binding = s.binding := rfl
@[simp] theorem State.modPress_same : (s.modPress b f).press b = f (s.press b) := by
  simp [State.modPress, State.press]
theorem State.modPress_other (k : BindIx) (h : k ≠ b) : (s.modPress b f).press k = s.press k := by
  have hk : (b : Nat) ≠ k := fun e => h (Fin.ext e.symm)
  simp [State.modPress, State.press, hk]
theorem State.modPress_get (k : BindIx) : (s.modPress b f).press k = if k = b then f (s.press k) else s.press k := by
  by_cases h : k = b
  · subst h; simp
  · simp [State.modPress_other, h]

end Modpress

/-! ## modLink -/

section Modlink

variable (s : State) (f : Link → Link)

@[simp] theorem State.modLink_now : (s.modLink f).now = s.now := rfl
@[simp] theorem State.modLink_choices : (s.modLink f).choices = s.choices := rfl
@[simp] theorem State.modLink_mode : (s.modLink f).mode = s.mode := rfl
@[simp] theorem State.modLink_resetLow : (s.modLink f).resetLow = s.resetLow := rfl
@[simp] theorem State.modLink_faultOut : (s.modLink f).faultOut = s.faultOut := rfl
@[simp] theorem State.modLink_listenTimer : (s.modLink f).listenTimer = s.listenTimer := rfl
@[simp] theorem State.modLink_cfg : (s.modLink f).cfg = s.cfg := rfl
@[simp] theorem State.modLink_link : (s.modLink f).link = f s.link := rfl
@[simp] theorem State.modLink_peers : (s.modLink f).peers = s.peers := rfl
@[simp] theorem State.modLink_pub : (s.modLink f).pub = s.pub := rfl
@[simp] theorem State.modLink_segs : (s.modLink f).segs = s.segs := rfl
@[simp] theorem State.modLink_foreign : (s.modLink f).foreign = s.foreign := rfl
@[simp] theorem State.modLink_saturated : (s.modLink f).saturated = s.saturated := rfl
@[simp] theorem State.modLink_claims : (s.modLink f).claims = s.claims := rfl
@[simp] theorem State.modLink_dims : (s.modLink f).dims = s.dims := rfl
@[simp] theorem State.modLink_scenes : (s.modLink f).scenes = s.scenes := rfl
@[simp] theorem State.modLink_partialCue : (s.modLink f).partialCue = s.partialCue := rfl
@[simp] theorem State.modLink_motionQueue : (s.modLink f).motionQueue = s.motionQueue := rfl
@[simp] theorem State.modLink_softFlags : (s.modLink f).softFlags = s.softFlags := rfl
@[simp] theorem State.modLink_presses : (s.modLink f).presses = s.presses := rfl
@[simp] theorem State.modLink_inputs : (s.modLink f).inputs = s.inputs := rfl
@[simp] theorem State.modLink_pins : (s.modLink f).pins = s.pins := rfl
@[simp] theorem State.modLink_sense : (s.modLink f).sense = s.sense := rfl
@[simp] theorem State.modLink_mots : (s.modLink f).mots = s.mots := rfl
@[simp] theorem State.modLink_stopLatch : (s.modLink f).stopLatch = s.stopLatch := rfl
@[simp] theorem State.modLink_rebroadcast : (s.modLink f).rebroadcast = s.rebroadcast := rfl
@[simp] theorem State.modLink_fadeTimer : (s.modLink f).fadeTimer = s.fadeTimer := rfl
@[simp] theorem State.modLink_sampleTimer : (s.modLink f).sampleTimer = s.sampleTimer := rfl
@[simp] theorem State.modLink_inputTimer : (s.modLink f).inputTimer = s.inputTimer := rfl
@[simp] theorem State.modLink_pending : (s.modLink f).pending = s.pending := rfl
@[simp] theorem State.modLink_seg : (s.modLink f).seg = s.seg := rfl
@[simp] theorem State.modLink_dim : (s.modLink f).dim = s.dim := rfl
@[simp] theorem State.modLink_mot : (s.modLink f).mot = s.mot := rfl
@[simp] theorem State.modLink_claim : (s.modLink f).claim = s.claim := rfl
@[simp] theorem State.modLink_peer : (s.modLink f).peer = s.peer := rfl
@[simp] theorem State.modLink_input : (s.modLink f).input = s.input := rfl
@[simp] theorem State.modLink_press : (s.modLink f).press = s.press := rfl
@[simp] theorem State.modLink_segCfg : (s.modLink f).segCfg = s.segCfg := rfl
@[simp] theorem State.modLink_dimCfg : (s.modLink f).dimCfg = s.dimCfg := rfl
@[simp] theorem State.modLink_motCfg : (s.modLink f).motCfg = s.motCfg := rfl
@[simp] theorem State.modLink_binding : (s.modLink f).binding = s.binding := rfl

end Modlink

/-! ## The clock -/

@[simp] theorem State.copyStages_choices (s : State) : s.copyStages.choices = s.choices := rfl
@[simp] theorem State.copyStages_mode (s : State) : s.copyStages.mode = s.mode := rfl
@[simp] theorem State.copyStages_resetLow (s : State) : s.copyStages.resetLow = s.resetLow := rfl
@[simp] theorem State.copyStages_faultOut (s : State) : s.copyStages.faultOut = s.faultOut := rfl
@[simp] theorem State.copyStages_listenTimer (s : State) : s.copyStages.listenTimer = s.listenTimer := rfl
@[simp] theorem State.copyStages_cfg (s : State) : s.copyStages.cfg = s.cfg := rfl
@[simp] theorem State.copyStages_link (s : State) : s.copyStages.link = s.link := rfl
@[simp] theorem State.copyStages_peers (s : State) : s.copyStages.peers = s.peers := rfl
@[simp] theorem State.copyStages_pub (s : State) : s.copyStages.pub = s.pub := rfl
@[simp] theorem State.copyStages_segs (s : State) : s.copyStages.segs = s.segs := rfl
@[simp] theorem State.copyStages_foreign (s : State) : s.copyStages.foreign = s.foreign := rfl
@[simp] theorem State.copyStages_saturated (s : State) : s.copyStages.saturated = s.saturated := rfl
@[simp] theorem State.copyStages_claims (s : State) : s.copyStages.claims = s.claims := rfl
@[simp] theorem State.copyStages_scenes (s : State) : s.copyStages.scenes = s.scenes := rfl
@[simp] theorem State.copyStages_partialCue (s : State) : s.copyStages.partialCue = s.partialCue := rfl
@[simp] theorem State.copyStages_motionQueue (s : State) : s.copyStages.motionQueue = s.motionQueue := rfl
@[simp] theorem State.copyStages_softFlags (s : State) : s.copyStages.softFlags = s.softFlags := rfl
@[simp] theorem State.copyStages_presses (s : State) : s.copyStages.presses = s.presses := rfl
@[simp] theorem State.copyStages_inputs (s : State) : s.copyStages.inputs = s.inputs := rfl
@[simp] theorem State.copyStages_pins (s : State) : s.copyStages.pins = s.pins := rfl
@[simp] theorem State.copyStages_sense (s : State) : s.copyStages.sense = s.sense := rfl
@[simp] theorem State.copyStages_stopLatch (s : State) : s.copyStages.stopLatch = s.stopLatch := rfl
@[simp] theorem State.copyStages_rebroadcast (s : State) : s.copyStages.rebroadcast = s.rebroadcast := rfl
@[simp] theorem State.copyStages_fadeTimer (s : State) : s.copyStages.fadeTimer = s.fadeTimer := rfl
@[simp] theorem State.copyStages_sampleTimer (s : State) : s.copyStages.sampleTimer = s.sampleTimer := rfl
@[simp] theorem State.copyStages_inputTimer (s : State) : s.copyStages.inputTimer = s.inputTimer := rfl
@[simp] theorem State.copyStages_pending (s : State) : s.copyStages.pending = s.pending := rfl
@[simp] theorem State.clockTo_choices (s : State) (t : Nat) : (s.clockTo t).choices = s.choices := by
  unfold State.clockTo; split
  · rfl
  · dsimp only; split <;> rfl
@[simp] theorem State.clockTo_mode (s : State) (t : Nat) : (s.clockTo t).mode = s.mode := by
  unfold State.clockTo; split
  · rfl
  · dsimp only; split <;> rfl
@[simp] theorem State.clockTo_resetLow (s : State) (t : Nat) : (s.clockTo t).resetLow = s.resetLow := by
  unfold State.clockTo; split
  · rfl
  · dsimp only; split <;> rfl
@[simp] theorem State.clockTo_faultOut (s : State) (t : Nat) : (s.clockTo t).faultOut = s.faultOut := by
  unfold State.clockTo; split
  · rfl
  · dsimp only; split <;> rfl
@[simp] theorem State.clockTo_listenTimer (s : State) (t : Nat) : (s.clockTo t).listenTimer = s.listenTimer := by
  unfold State.clockTo; split
  · rfl
  · dsimp only; split <;> rfl
@[simp] theorem State.clockTo_cfg (s : State) (t : Nat) : (s.clockTo t).cfg = s.cfg := by
  unfold State.clockTo; split
  · rfl
  · dsimp only; split <;> rfl
@[simp] theorem State.clockTo_link (s : State) (t : Nat) : (s.clockTo t).link = s.link := by
  unfold State.clockTo; split
  · rfl
  · dsimp only; split <;> rfl
@[simp] theorem State.clockTo_peers (s : State) (t : Nat) : (s.clockTo t).peers = s.peers := by
  unfold State.clockTo; split
  · rfl
  · dsimp only; split <;> rfl
@[simp] theorem State.clockTo_pub (s : State) (t : Nat) : (s.clockTo t).pub = s.pub := by
  unfold State.clockTo; split
  · rfl
  · dsimp only; split <;> rfl
@[simp] theorem State.clockTo_segs (s : State) (t : Nat) : (s.clockTo t).segs = s.segs := by
  unfold State.clockTo; split
  · rfl
  · dsimp only; split <;> rfl
@[simp] theorem State.clockTo_foreign (s : State) (t : Nat) : (s.clockTo t).foreign = s.foreign := by
  unfold State.clockTo; split
  · rfl
  · dsimp only; split <;> rfl
@[simp] theorem State.clockTo_saturated (s : State) (t : Nat) : (s.clockTo t).saturated = s.saturated := by
  unfold State.clockTo; split
  · rfl
  · dsimp only; split <;> rfl
@[simp] theorem State.clockTo_claims (s : State) (t : Nat) : (s.clockTo t).claims = s.claims := by
  unfold State.clockTo; split
  · rfl
  · dsimp only; split <;> rfl
@[simp] theorem State.clockTo_scenes (s : State) (t : Nat) : (s.clockTo t).scenes = s.scenes := by
  unfold State.clockTo; split
  · rfl
  · dsimp only; split <;> rfl
@[simp] theorem State.clockTo_partialCue (s : State) (t : Nat) : (s.clockTo t).partialCue = s.partialCue := by
  unfold State.clockTo; split
  · rfl
  · dsimp only; split <;> rfl
@[simp] theorem State.clockTo_motionQueue (s : State) (t : Nat) : (s.clockTo t).motionQueue = s.motionQueue := by
  unfold State.clockTo; split
  · rfl
  · dsimp only; split <;> rfl
@[simp] theorem State.clockTo_softFlags (s : State) (t : Nat) : (s.clockTo t).softFlags = s.softFlags := by
  unfold State.clockTo; split
  · rfl
  · dsimp only; split <;> rfl
@[simp] theorem State.clockTo_presses (s : State) (t : Nat) : (s.clockTo t).presses = s.presses := by
  unfold State.clockTo; split
  · rfl
  · dsimp only; split <;> rfl
@[simp] theorem State.clockTo_active (s : State) (t : Nat) : (s.clockTo t).active = s.active := by simp [State.active]
@[simp] theorem State.clockTo_built (s : State) (t : Nat) : (s.clockTo t).built = s.built := by simp [State.built]
/-- The clock does not run backward. -/
theorem State.clockTo_past (s : State) (t : Nat) (h : t ≤ s.now) : s.clockTo t = s := by simp [State.clockTo, h]
/-- Where the filters sample, the blocks are built (R128). -/
theorem built_of_firstSample {s : State} (h : s.firstSample.isSome = true) : s.built = true := by
  unfold State.firstSample at h; split at h
  · cases h
  · split at h
    · assumption
    · cases h
/-- A filter accepts only where the blocks are built (R128). -/
theorem built_of_accepted {s : State} {i : InIx} (h : s.hasAccepted i = true) : s.built = true :=
  built_of_firstSample (Bool.and_eq_true .. ▸ h).1
/-- The inputs take the samples that fall on the way (R126, R127). -/
theorem State.clockTo_input (s : State) (t : Nat) (i : InIx) :
    (s.clockTo t).input i =
      if t ≤ s.now then s.input i else (s.input i).sampled (acceptAt s.cfg.roles[i]) s.pins[i] (s.samplesTo i t) := by
  unfold State.clockTo State.input
  split
  · rfl
  · dsimp only; split <;> simp [State.copyStages]
@[simp] theorem State.clockTo_filtered (s : State) (t : Nat) (i : InIx) :
    ((s.clockTo t).input i).filtered = (s.input i).filtered := by
  rw [State.clockTo_input]; split
  · rfl
  · unfold InputRec.sampled; repeat' split
    all_goals rfl
@[simp] theorem State.clockTo_pins (s : State) (t : Nat) : (s.clockTo t).pins = s.pins := by
  unfold State.clockTo; split
  · rfl
  · dsimp only; split <;> rfl
@[simp] theorem State.clockTo_sense (s : State) (t : Nat) : (s.clockTo t).sense = s.sense := by
  unfold State.clockTo; split
  · rfl
  · dsimp only; split <;> rfl
@[simp] theorem State.clockTo_stopLatch (s : State) (t : Nat) : (s.clockTo t).stopLatch = s.stopLatch := by
  unfold State.clockTo; split
  · rfl
  · dsimp only; split <;> rfl
@[simp] theorem State.clockTo_rebroadcast (s : State) (t : Nat) : (s.clockTo t).rebroadcast = s.rebroadcast := by
  unfold State.clockTo; split
  · rfl
  · dsimp only; split <;> rfl
@[simp] theorem State.clockTo_fadeTimer (s : State) (t : Nat) : (s.clockTo t).fadeTimer = s.fadeTimer := by
  unfold State.clockTo; split
  · rfl
  · dsimp only; split <;> rfl
@[simp] theorem State.clockTo_sampleTimer (s : State) (t : Nat) : (s.clockTo t).sampleTimer = s.sampleTimer := by
  unfold State.clockTo; split
  · rfl
  · dsimp only; split <;> rfl
@[simp] theorem State.clockTo_inputTimer (s : State) (t : Nat) : (s.clockTo t).inputTimer = s.inputTimer := by
  unfold State.clockTo; split
  · rfl
  · dsimp only; split <;> rfl
@[simp] theorem State.clockTo_firstSample (s : State) (t : Nat) : (s.clockTo t).firstSample = s.firstSample := by
  simp [State.firstSample]
@[simp] theorem State.clockTo_pending (s : State) (t : Nat) : (s.clockTo t).pending = s.pending := by
  unfold State.clockTo; split
  · rfl
  · dsimp only; split <;> rfl
@[simp] theorem State.clockTo_now (s : State) (t : Nat) : (s.clockTo t).now = max s.now t := by
  unfold State.clockTo
  split
  · omega
  · dsimp only; split <;> simp [State.copyStages] <;> omega

end Sys2Proof.Machine
end

