-- ==== Sys2Proof/Laws/Ops.lean ====
section
/-! SUPPORT. What an operation keeps: a predicate of the state that holds before it holds after it, for the ways of
putting operations together, for the consequences of an event, and for an event as a whole. -/

namespace Sys2Proof.Machine

/-! ## The ways of putting operations together -/

@[simp] theorem Op.set_run (f : State → State) (s : State) : Op.set f s = (f s, []) := rfl
@[simp] theorem Op.emit_run (f : State → List Act) (s : State) : Op.emit f s = (s, f s) := rfl
@[simp] theorem Op.skip_run (s : State) : Op.skip s = (s, []) := rfl
@[simp] theorem Op.andThen_fst (a b : Op) (s : State) : (Op.andThen a b s).1 = (b (a s).1).1 := rfl
@[simp] theorem Op.andThen_snd (a b : Op) (s : State) : (Op.andThen a b s).2 = (a s).2 ++ (b (a s).1).2 := rfl
@[simp] theorem Op.chain_nil (s : State) : Op.chain [] s = (s, []) := rfl
@[simp] theorem Op.chain_cons (a : Op) (l : List Op) (s : State) :
    Op.chain (a :: l) s = ((Op.chain l (a s).1).1, (a s).2 ++ (Op.chain l (a s).1).2) := rfl
theorem Op.cond_run (c : State → Bool) (a b : Op) (s : State) : Op.cond c a b s = if c s then a s else b s := rfl

/-! ## What an operation keeps -/

/-- The operation keeps the predicate. -/
def Op.Keeps (P : State → Prop) (op : Op) : Prop := ∀ s, P s → P (op s).1

theorem Op.keeps_skip (P : State → Prop) : Op.Keeps P Op.skip := fun _ h => h

theorem Op.keeps_emit (P : State → Prop) (f : State → List Act) : Op.Keeps P (Op.emit f) := fun _ h => h

theorem Op.keeps_set {P : State → Prop} {f : State → State} (h : ∀ s, P s → P (f s)) : Op.Keeps P (Op.set f) := h

theorem Op.keeps_andThen {P : State → Prop} {a b : Op} (ha : Op.Keeps P a) (hb : Op.Keeps P b) :
    Op.Keeps P (Op.andThen a b) := fun s h => hb _ (ha s h)

theorem Op.keeps_chain {P : State → Prop} {l : List Op} (h : ∀ a ∈ l, Op.Keeps P a) : Op.Keeps P (Op.chain l) := by
  induction l with
  | nil => exact Op.keeps_skip P
  | cons a l ih =>
    exact Op.keeps_andThen (h a (List.mem_cons_self ..)) (ih fun b hb => h b (List.mem_cons_of_mem _ hb))

theorem Op.keeps_each {α : Type} {P : State → Prop} {f : α → Op} {l : List α} (h : ∀ a ∈ l, Op.Keeps P (f a)) :
    Op.Keeps P (Op.each f l) := by
  apply Op.keeps_chain
  intro op hop
  obtain ⟨a, ha, rfl⟩ := List.mem_map.mp hop
  exact h a ha

theorem Op.keeps_cond {P : State → Prop} {c : State → Bool} {a b : Op} (ha : Op.Keeps P a) (hb : Op.Keeps P b) :
    Op.Keeps P (Op.cond c a b) := by
  intro s h
  unfold Op.cond
  split
  · exact ha s h
  · exact hb s h

/-- A choice of order changes nothing but the count of such choices. -/
theorem Op.eitherFirst_fst (a b : State → List Act) (s : State) :
    (Op.eitherFirst a b s).1 = { s with choices := s.choices + 1 } := rfl

theorem foldState_keeps {α : Type} {P : State → Prop} {f : α → State → State} (h : ∀ a s, P s → P (f a s))
    (l : List α) (s : State) (hs : P s) : P (foldState f l s) := by
  unfold foldState
  induction l generalizing s with
  | nil => exact hs
  | cons a l ih => exact ih _ (h a s hs)

/-! ## The consequences of an event -/

/-- What each piece of work keeps, all of them keep. -/
theorem runActs_keeps {P : State → Prop} (h : ∀ a, Op.Keeps P (perform a)) (n : Nat) (acts : List Act) (s : State)
    (hs : P s) : P (runActs n acts s) := by
  induction n generalizing acts s with
  | zero => cases acts <;> exact hs
  | succ n ih =>
    cases acts with
    | nil => exact hs
    | cons a rest => exact ih _ _ (h a s hs)

/-- What each piece of work of a kind keeps, and leads to work of that kind, all of it keeps. -/
theorem runActs_keeps_of {P : State → Prop} {Q : Act → Prop} (h : ∀ a s, Q a → P s → P (perform a s).1)
    (hq : ∀ a s, Q a → P s → ∀ b ∈ (perform a s).2, Q b) (n : Nat) (acts : List Act) (s : State)
    (ha : ∀ a ∈ acts, Q a) (hs : P s) : P (runActs n acts s) := by
  induction n generalizing acts s with
  | zero => cases acts <;> exact hs
  | succ n ih =>
    cases acts with
    | nil => exact hs
    | cons a rest =>
      have qa : Q a := ha a (List.mem_cons_self ..)
      refine ih _ _ ?_ (h a s qa hs)
      intro b hb
      rcases List.mem_append.mp hb with hb | hb
      · exact hq a s qa hs b hb
      · exact ha b (List.mem_cons_of_mem _ hb)

@[simp] theorem runActs_nil (n : Nat) (s : State) : runActs n [] s = s := by cases n <;> rfl

@[simp] theorem settle_nil (s : State) : settle (s, []) = s := by simp [settle]

theorem settle_keeps {P : State → Prop} (h : ∀ a, Op.Keeps P (perform a)) (x : State × List Act) (hx : P x.1) :
    P (settle x) := runActs_keeps h _ _ _ hx

/-- An event keeps what its operation, each piece of work and the publisher keep. -/
theorem event_keeps {P : State → Prop} {op : Op} (hop : Op.Keeps P op) (h : ∀ a, Op.Keeps P (perform a))
    (hp : ∀ raised s, P s → P (publish raised s)) (s : State) (hs : P s) : P (event op s) :=
  hp _ _ (settle_keeps h _ (hop s hs))

/-- The passing of time keeps what the clock, the count of choices and the events of accepted changes keep. -/
theorem passTo_keeps {P : State → Prop} (ht : ∀ t s, P s → P (s.clockTo t))
    (hc : ∀ s, P s → P { s with choices := s.choices + 1 })
    (hi : ∀ i s, P s → s.hasAccepted i = true → P (handOn i s)) (t : Nat) (s : State) (hs : P s) : P (s.passTo t) := by
  refine ht _ _ ?_
  generalize 33 = n
  induction n generalizing s with
  | zero => exact hs
  | succ n ih =>
    unfold passFilters
    split
    · exact hs
    · have mem : ∀ i ∈ s.accepted, s.hasAccepted i = true := fun i h => (List.mem_filter.mp h).2
      split
      · exact ih _ (ht _ _ hs)
      · rename_i i h; exact ih _ (hi i s hs (mem i (by rw [h]; exact List.mem_singleton.mpr rfl)))
      · rename_i i j rest h
        refine ih _ (hi _ _ (hc s hs) ?_)
        have : (i :: j :: rest).getD (Config.tieBreak s.choices % (i :: j :: rest).length) i ∈ s.accepted := by
          rw [h, List.getD_eq_getElem?_getD, List.getElem?_eq_getElem (Nat.mod_lt _ (by simp)), Option.getD_some]
          exact List.getElem_mem _
        exact mem _ this

/-- An expiry keeps what the passing of time and its event keep. -/
theorem expiry_keeps {P : State → Prop} {op : Op} (due : State → Option Nat) (ht : ∀ t s, P s → P (s.passTo t))
    (he : ∀ s, P s → P (event op s)) (s : State) (hs : P s) : P (expiry due op s) := by
  unfold expiry
  split
  · exact hs
  · split
    · exact he _ (ht _ s hs)
    · exact ht _ s hs

/-- An arrival keeps what a clash and its owner keep. -/
theorem arrival_keeps {P : State → Prop} {k : Kind} {f : Frame} {owner : Op} (hc : Op.Keeps P enterSilentClash)
    (ho : Op.Keeps P owner) (h : ∀ a, Op.Keeps P (perform a)) (hp : ∀ raised s, P s → P (publish raised s)) (s : State)
    (hs : P s) : P (arrival k f owner s) := by
  unfold arrival
  split
  · exact hs
  · exact event_keeps hc h hp s hs
  · exact event_keeps ho h hp s hs

/-! ## The publisher's part of an event -/

/-- The publisher touches its own state and the STATUS slot, and nothing else. -/
theorem publish_frame (raised : Bool) (s : State) :
    ∃ p l, publish raised s = { s with pub := p, link := l } ∧ l.queue = s.link.queue ∧ l.errors = s.link.errors ∧
      l.clashed = s.link.clashed ∧ l.joined = s.link.joined := by
  unfold publish
  split
  · split
    · refine ⟨_, placeStatus (newFrame Config.statusLevel (.status ((s.pub.seq + 1) % 256) s.contents)) s.link, rfl, ?_⟩
      unfold placeStatus
      split
      · exact ⟨rfl, rfl, rfl, rfl⟩
      · split <;> exact ⟨rfl, rfl, rfl, rfl⟩
    · exact ⟨_, _, rfl, rfl, rfl, rfl, rfl⟩
  · exact ⟨_, _, rfl, rfl, rfl, rfl, rfl⟩

/-- Where no early cause has arisen, the publisher does nothing. -/
@[simp] theorem publish_none (s : State) : publish false s = s := by simp [publish]

@[simp] theorem raises_self (s : State) : s.raises s = false := by simp [State.raises]

@[simp] theorem settleRaises_nil (s : State) : settleRaises (s, []) = false := by
  unfold settleRaises; generalize workLeft _ _ = n; cases n <;> rfl

@[simp] theorem event_skip (s : State) : event Op.skip s = s := by simp [event]

/-- An operation that leaves no work: what it changes is all the event changes, but for the publisher. -/
theorem event_set (f : State → State) (s : State) : event (Op.set f) s = publish (s.raises (f s)) (f s) := by
  simp [event]

end Sys2Proof.Machine
end

