-- ==== Sys2Proof/Laws/Frame.lean ====
section
/-! SUPPORT. What the consequences of an event never touch: the configuration, the clock, the mode, the peer table, the
publisher, the foreign claims, the inputs, the marks of the line and the queue of commands. One lemma for each shared operation. -/

namespace Sys2Proof.Machine

/-- The part of the state that no consequence of an event touches. -/
structure Fixed where
  now : Nat
  mode : Mode
  resetLow : Bool
  faultOut : Bool
  listenTimer : Timer
  cfg : NodeConfig
  peers : Vector PeerEntry 32
  pub : Publisher
  foreign : List ForeignClaim
  saturated : Bool
  inputs : Vector InputRec 16
  pins : Vector Bool 16
  sense : Vector Nat 4
  fadeTimer : Timer
  sampleTimer : Timer
  inputTimer : Timer
  clashed : Bool
  joined : Bool
  pending : List Instr

/-- That part of a state. -/
def State.fixed (s : State) : Fixed :=
  { now := s.now, mode := s.mode, resetLow := s.resetLow, faultOut := s.faultOut, listenTimer := s.listenTimer,
    cfg := s.cfg, peers := s.peers, pub := s.pub, foreign := s.foreign, saturated := s.saturated, inputs := s.inputs,
    pins := s.pins, sense := s.sense, fadeTimer := s.fadeTimer, sampleTimer := s.sampleTimer, inputTimer := s.inputTimer,
    clashed := s.link.clashed, joined := s.link.joined, pending := s.pending }

theorem foldState_fixed {α : Type} {f : α → State → State} (h : ∀ a s, (f a s).fixed = s.fixed) (l : List α)
    (s : State) : (foldState f l s).fixed = s.fixed :=
  foldState_keeps (P := fun t => t.fixed = s.fixed) (fun a t ht => (h a t).trans ht) l s rfl

theorem chain_fixed {l : List Op} (h : ∀ a ∈ l, ∀ s, (a s).1.fixed = s.fixed) (s : State) :
    (Op.chain l s).1.fixed = s.fixed :=
  Op.keeps_chain (P := fun t => t.fixed = s.fixed) (fun a ha t ht => (h a ha t).trans ht) s rfl

theorem each_fixed {α : Type} {f : α → Op} {l : List α} (h : ∀ a s, (f a s).1.fixed = s.fixed) (s : State) :
    (Op.each f l s).1.fixed = s.fixed :=
  Op.keeps_each (P := fun t => t.fixed = s.fixed) (fun a _ t ht => (h a t).trans ht) s rfl

theorem cond_fixed {c : State → Bool} {a b : Op} (ha : ∀ s, (a s).1.fixed = s.fixed)
    (hb : ∀ s, (b s).1.fixed = s.fixed) (s : State) : (Op.cond c a b s).1.fixed = s.fixed := by
  unfold Op.cond; split <;> simp [ha, hb]

@[simp] theorem eitherFirst_fixed (a b : State → List Act) (s : State) :
    (Op.eitherFirst a b s).1.fixed = s.fixed := rfl

/-! ## Updates of one record -/

@[simp] theorem modSeg_fixed (s : State) (g : SegIx) (f) : (s.modSeg g f).fixed = s.fixed := rfl
@[simp] theorem modDim_fixed (s : State) (d : DimIx) (f) : (s.modDim d f).fixed = s.fixed := rfl
@[simp] theorem modMot_fixed (s : State) (m : MotIx) (f) : (s.modMot m f).fixed = s.fixed := rfl
@[simp] theorem modClaim_fixed (s : State) (m : MotIx) (f) : (s.modClaim m f).fixed = s.fixed := rfl
@[simp] theorem modPress_fixed (s : State) (b : BindIx) (f) : (s.modPress b f).fixed = s.fixed := rfl
@[simp] theorem modScene_fixed (s : State) (n : Nat) (f) : (s.modScene n f).fixed = s.fixed := rfl

/-! ## Budget and dimmers -/

@[simp] theorem tally_fixed (g : SegIx) (s : State) : (tally g s).fixed = s.fixed := rfl

@[simp] theorem beginFade_fixed (d : DimIx) (t n : Nat) (s : State) : (beginFade d t n s).fixed = s.fixed := rfl

@[simp] theorem requestCore_fixed (d : DimIx) (q n : Nat) (s : State) : (requestCore d q n s).fixed = s.fixed := rfl

@[simp] theorem capClass_fixed (g : SegIx) (c : Nat) (s : State) : (capClass g c s).fixed = s.fixed := by
  unfold capClass
  rw [foldState_fixed, foldState_fixed] <;> intro a t <;> split <;> simp

@[simp] theorem uncapClass_fixed (g : SegIx) (c : Nat) (s : State) : (uncapClass g c s).fixed = s.fixed := by
  unfold uncapClass
  rw [foldState_fixed]; intro a t; split <;> simp

@[simp] theorem enterShed1_fixed (g : SegIx) (s : State) : (enterShed1 g s).fixed = s.fixed := by
  unfold enterShed1; split <;> simp

@[simp] theorem recompute_fixed (g : SegIx) (s : State) : (recompute g s).fixed = s.fixed := by simp [recompute]

@[simp] theorem request_fixed (d : DimIx) (q n : Nat) (s : State) : (request d q n s).fixed = s.fixed := by
  simp [request]

@[simp] theorem capUpkeep_fixed (d : DimIx) (s : State) : (capUpkeep d s).fixed = s.fixed := by
  unfold capUpkeep; split <;> simp

@[simp] theorem endFadeHere_fixed (d : DimIx) (s : State) : (endFadeHere d s).fixed = s.fixed := by
  unfold endFadeHere; split <;> simp

@[simp] theorem freezeDimmer_fixed (d : DimIx) (s : State) : (freezeDimmer d s).fixed = s.fixed := by
  unfold freezeDimmer; split <;> simp

@[simp] theorem emptySlot_fixed (d : DimIx) (s : State) : (emptySlot d s).fixed = s.fixed := rfl

@[simp] theorem loadSlot_fixed (d : DimIx) (n l f : Nat) (s : State) : (loadSlot d n l f s).fixed = s.fixed := rfl

@[simp] theorem loseEntry_fixed (n : Nat) (s : State) : (loseEntry n s).fixed = s.fixed := rfl

@[simp] theorem preload_fixed (d : DimIx) (l f : Nat) (s : State) : (preload d l f s).fixed = s.fixed := by
  unfold preload; dsimp only; split <;> simp

@[simp] theorem setLevel_fixed (d : DimIx) (l f : Nat) (s : State) : (setLevel d l f s).fixed = s.fixed := by
  unfold setLevel; split <;> simp

/-! ## The Link Controller -/

@[simp] theorem offerFrame_fixed (f : TxFrame) (s : State) : (offerFrame f s).1.fixed = s.fixed := by
  unfold offerFrame
  split
  · rfl
  · split
    · rfl
    · split
      · split <;> rfl
      · rfl

/-! ## Claims -/

@[simp] theorem withdraw_fixed (m : MotIx) (s : State) : (withdraw m s).1.fixed = s.fixed := by
  unfold withdraw; dsimp only; split <;> simp

@[simp] theorem openClaim_fixed (m : MotIx) (s : State) : (openClaim m s).1.fixed = s.fixed := rfl

@[simp] theorem createClaim_fixed (m : MotIx) (l : Nat) (o : Bool) (s : State) :
    (createClaim m l o s).1.fixed = s.fixed := by
  unfold createClaim; dsimp only; split <;> simp

@[simp] theorem endHold_fixed (m : MotIx) (s : State) : (endHold m s).fixed = s.fixed := by simp [endHold]

/-! ## Motion -/

@[simp] theorem answerMotion_run (c : MotionCmd) (o : Outcome) (s : State) :
    answerMotion c o s = (s, answerWork c.origin c.tag c.wanted o s) := rfl

@[simp] theorem answerCmd_run (c : Cmd) (o : Outcome) (s : State) :
    answerCmd c o s = (s, answerWork c.origin c.tag c.wanted o s) := rfl

@[simp] theorem thenTake_run (m : MotIx) (s : State) : thenTake m s = (s, [.take m]) := rfl

@[simp] theorem refreshPosture_fixed (m : MotIx) (s : State) : (refreshPosture m s).1.fixed = s.fixed := by
  unfold refreshPosture; split <;> simp

@[simp] theorem becomeIdle_fixed (m : MotIx) (s : State) : (becomeIdle m s).1.fixed = s.fixed := by simp [becomeIdle]

@[simp] theorem endClaiming_fixed (m : MotIx) (s : State) : (endClaiming m s).1.fixed = s.fixed := by
  simp [endClaiming]

@[simp] theorem enterSettling_fixed (m : MotIx) (s : State) : (enterSettling m s).1.fixed = s.fixed := by
  simp [enterSettling]

@[simp] theorem enterStopping_fixed (m : MotIx) (s : State) : (enterStopping m s).1.fixed = s.fixed := by
  simp [enterStopping]

@[simp] theorem beginSpeedFade_fixed (m : MotIx) (t n : Nat) (s : State) :
    (beginSpeedFade m t n s).fixed = s.fixed := rfl

@[simp] theorem enterSlowBand_fixed (m : MotIx) (s : State) : (enterSlowBand m s).fixed = s.fixed := by
  simp [enterSlowBand]

@[simp] theorem slowBandTest_fixed (m : MotIx) (s : State) : (slowBandTest m s).1.fixed = s.fixed := by
  simp only [slowBandTest, Op.set_run]; split <;> simp

@[simp] theorem targetTest_fixed (m : MotIx) (s : State) : (targetTest m s).1.fixed = s.fixed := by
  unfold targetTest; apply cond_fixed <;> simp

@[simp] theorem positionTests_fixed (m : MotIx) (s : State) : (positionTests m s).1.fixed = s.fixed := by
  unfold positionTests; apply cond_fixed <;> simp

@[simp] theorem enterStarting_fixed (m : MotIx) (s : State) : (enterStarting m s).1.fixed = s.fixed := by
  simp [enterStarting]

@[simp] theorem enterRunning_fixed (m : MotIx) (s : State) : (enterRunning m s).1.fixed = s.fixed := by
  simp only [enterRunning, Op.set_run]; split <;> simp

@[simp] theorem dropFollowOn_fixed (m : MotIx) (s : State) : (dropFollowOn m s).1.fixed = s.fixed := by
  unfold dropFollowOn; split <;> simp

@[simp] theorem handOnTrip_fixed (m : MotIx) (r : TripReason) (s : State) : (handOnTrip m r s).1.fixed = s.fixed := by
  unfold handOnTrip
  dsimp only
  generalize s.siblingWork m r = l
  split <;> simp

@[simp] theorem trip_fixed (m : MotIx) (r : TripReason) (s : State) : (trip m r s).1.fixed = s.fixed := by
  unfold trip; apply cond_fixed <;> simp

@[simp] theorem tripIfMoving_fixed (m : MotIx) (r : TripReason) (s : State) :
    (tripIfMoving m r s).1.fixed = s.fixed := by
  unfold tripIfMoving; apply cond_fixed <;> simp

@[simp] theorem siblingTrip_fixed (m : MotIx) (s : State) : (siblingTrip m s).1.fixed = s.fixed := by
  unfold siblingTrip; apply cond_fixed <;> simp

@[simp] theorem siblingTrips_fixed (s : State) : (siblingTrips s).1.fixed = s.fixed :=
  each_fixed siblingTrip_fixed s

@[simp] theorem evaluateLocks_fixed (m : MotIx) (e : LockEvent) (s : State) :
    (evaluateLocks m e s).1.fixed = s.fixed := by
  unfold evaluateLocks; apply cond_fixed <;> simp

@[simp] theorem takePulse_fixed (m : MotIx) (s : State) : (takePulse m s).1.fixed = s.fixed := by
  simp only [takePulse]
  apply chain_fixed
  intro a ha t
  simp only [List.mem_cons, List.not_mem_nil, or_false] at ha
  rcases ha with rfl | rfl | rfl
  · simp
  · apply cond_fixed <;> simp
  · simp

@[simp] theorem reference_fixed (m : MotIx) (d : Dir) (s : State) : (reference m d s).fixed = s.fixed := by
  unfold reference; split <;> simp

@[simp] theorem contactStops_fixed (m : MotIx) (d : Dir) (s : State) : (contactStops m d s).1.fixed = s.fixed := by
  unfold contactStops; repeat' split
  all_goals simp

@[simp] theorem endContact_fixed (m : MotIx) (d : Dir) (b : Bool) (s : State) :
    (endContact m d b s).1.fixed = s.fixed := by
  unfold endContact; split <;> simp

@[simp] theorem setHolder_fixed (m : MotIx) (c : MotionCmd) (d : Dir) (t : Option Nat) (s : State) :
    (setHolder m c d t s).fixed = s.fixed := rfl

@[simp] theorem enterClaiming_fixed (m : MotIx) (c : MotionCmd) (d : Dir) (t : Option Nat) (s : State) :
    (enterClaiming m c d t s).1.fixed = s.fixed := by
  simp [enterClaiming]

theorem takeCommand_fixed (m : MotIx) (c : MotionCmd) (k d : Option Nat) {r o : Op}
    (hr : ∀ s, (r s).1.fixed = s.fixed) (ho : ∀ s, (o s).1.fixed = s.fixed) (s : State) :
    (takeCommand m c k d r o s).1.fixed = s.fixed := by
  unfold takeCommand; split <;> simp [hr, ho]

@[simp] theorem takePending_fixed (m : MotIx) (s : State) : (takePending m s).1.fixed = s.fixed := by
  unfold takePending
  split
  · rfl
  · split
    · rfl
    · rw [takeCommand_fixed] <;> simp [State.fixed]

@[simp] theorem yieldClaim_fixed (m : MotIx) (s : State) : (yieldClaim m s).1.fixed = s.fixed := by
  unfold yieldClaim
  apply chain_fixed
  intro a ha t
  simp only [List.mem_cons, List.not_mem_nil, or_false] at ha
  rcases ha with rfl | rfl
  · simp
  · apply cond_fixed <;> simp

@[simp] theorem creationReport_fixed (b : Bool) (m : MotIx) (s : State) :
    (creationReport b m s).1.fixed = s.fixed := by
  unfold creationReport; dsimp only; repeat' split
  all_goals simp

@[simp] theorem releaseWaiting_fixed (m : MotIx) (s : State) : (releaseWaiting m s).1.fixed = s.fixed := by
  unfold releaseWaiting; apply cond_fixed <;> simp

@[simp] theorem takeReport_fixed (b : Bool) (f : TxFrame) (s : State) : (takeReport b f s).1.fixed = s.fixed := by
  obtain ⟨_, body, _, _⟩ := f
  cases body with
  | claim m g a h => simp only [takeReport]; split <;> simp
  | _ => rfl

@[simp] theorem contendClaim_fixed (m : MotIx) (g : SegIx) (l : Nat) (n : NodeId) (s : State) :
    (contendClaim m g l n s).1.fixed = s.fixed := by
  unfold contendClaim; apply cond_fixed <;> simp

@[simp] theorem loseHold_fixed (m : MotIx) (s : State) : (loseHold m s).1.fixed = s.fixed := by
  unfold loseHold; split <;> simp

@[simp] theorem haltMotion_fixed (m : MotIx) (s : State) : (haltMotion m s).1.fixed = s.fixed := by
  unfold haltMotion; split <;> simp

@[simp] theorem passSettle_fixed (m : MotIx) (s : State) : (passSettle m s).1.fixed = s.fixed := by
  unfold passSettle
  simp only [Op.chain_cons, Op.chain_nil, Op.set_run]
  rw [cond_fixed] <;> simp
  intro t
  rw [cond_fixed] <;> simp

@[simp] theorem settleClaim_fixed (m : MotIx) (s : State) : (settleClaim m s).1.fixed = s.fixed := by
  unfold settleClaim; apply cond_fixed <;> simp

@[simp] theorem stepSpeedTo_fixed (m : MotIx) (k : Fade → Nat) (s : State) :
    (stepSpeedTo m k s).1.fixed = s.fixed := by
  unfold stepSpeedTo
  split
  · rfl
  · dsimp only; split <;> simp

@[simp] theorem latchFollowOn_fixed (m : MotIx) (s : State) : (latchFollowOn m s).1.fixed = s.fixed := by
  unfold latchFollowOn; apply cond_fixed <;> simp

@[simp] theorem emptyQueue_fixed (o : Outcome) (s : State) : (emptyQueue o s).1.fixed = s.fixed := by
  unfold emptyQueue; rw [each_fixed] <;> simp [State.fixed]

@[simp] theorem setLatch_fixed (s : State) : (setLatch s).1.fixed = s.fixed := by
  unfold setLatch; apply cond_fixed
  · simp
  · intro t
    simp only [Op.chain_cons, Op.chain_nil, Op.set_run, emptyQueue_fixed]
    rw [each_fixed (fun m s => latchFollowOn_fixed m s), each_fixed (fun m s => tripIfMoving_fixed m _ s)]; rfl

/-! ## Commands -/

theorem dimmerVerb_fixed (v : Verb) {act : DimIx → State → State} (h : ∀ d s, (act d s).fixed = s.fixed) (c : Cmd)
    (s : State) : (dimmerVerb v act c s).1.fixed = s.fixed := by
  unfold dimmerVerb
  split
  · split <;> simp [h, badArgument]
  · simp [badArgument]

@[simp] theorem setCommand_fixed (c : Cmd) (s : State) : (setCommand c s).1.fixed = s.fixed := by
  unfold setCommand; apply dimmerVerb_fixed; simp

@[simp] theorem nudgeCommand_fixed (c : Cmd) (s : State) : (nudgeCommand c s).1.fixed = s.fixed := by
  unfold nudgeCommand; apply dimmerVerb_fixed; simp

@[simp] theorem freezeCommand_fixed (c : Cmd) (s : State) : (freezeCommand c s).1.fixed = s.fixed := by
  unfold freezeCommand; apply dimmerVerb_fixed; simp

@[simp] theorem removePending_fixed (n : NodeId) (t : Nat) (o : Outcome) (s : State) :
    (removePending n t o s).1.fixed = s.fixed := by
  unfold removePending; split <;> rfl

@[simp] theorem enterQueue_fixed (m : MotIx) (c : MotionCmd) (s : State) : (enterQueue m c s).1.fixed = s.fixed := rfl

@[simp] theorem queueCommand_fixed (m : MotIx) (c : MotionCmd) (s : State) :
    (queueCommand m c s).1.fixed = s.fixed := by
  unfold queueCommand; repeat' split
  all_goals rfl

@[simp] theorem retarget_fixed (m : MotIx) (s : State) : (retarget m s).fixed = s.fixed := by
  unfold retarget; dsimp only; repeat' split
  all_goals simp

@[simp] theorem replaceHolder_fixed (m : MotIx) (c : MotionCmd) (s : State) :
    (replaceHolder m c s).1.fixed = s.fixed := by
  unfold replaceHolder
  apply chain_fixed
  intro a ha t
  simp only [List.mem_cons, List.not_mem_nil, or_false] at ha
  rcases ha with rfl | rfl | rfl | rfl
  · simp
  · simp
  · simp only [Op.set_run]; split <;> simp
  · apply cond_fixed <;> simp

@[simp] theorem samePreemption_fixed (m : MotIx) (c : MotionCmd) (s : State) :
    (samePreemption m c s).1.fixed = s.fixed := by
  unfold samePreemption; repeat' split
  all_goals simp

@[simp] theorem oppositeClaiming_fixed (m : MotIx) (c : MotionCmd) (s : State) :
    (oppositeClaiming m c s).1.fixed = s.fixed := by
  unfold oppositeClaiming; split <;> simp

@[simp] theorem oppositeDriven_fixed (m : MotIx) (c : MotionCmd) (s : State) :
    (oppositeDriven m c s).1.fixed = s.fixed := by
  simp [oppositeDriven]

@[simp] theorem preempt_fixed (m : MotIx) (c : MotionCmd) (s : State) : (preempt m c s).1.fixed = s.fixed := by
  unfold preempt; repeat' split
  all_goals simp

@[simp] theorem motionByState_fixed (m : MotIx) (c : MotionCmd) (s : State) :
    (motionByState m c s).1.fixed = s.fixed := by
  unfold motionByState; repeat' split
  all_goals first
    | (rw [takeCommand_fixed] <;> simp)
    | simp

@[simp] theorem motionCommand_fixed (m : MotIx) (c : MotionCmd) (s : State) :
    (motionCommand m c s).1.fixed = s.fixed := by
  unfold motionCommand; repeat' split
  all_goals simp

theorem motionVerb_fixed (v : Verb) {act : MotIx → Op} (h : ∀ m s, (act m s).1.fixed = s.fixed) (c : Cmd)
    (s : State) : (motionVerb v act c s).1.fixed = s.fixed := by
  unfold motionVerb
  split
  · split <;> simp [h, badArgument]
  · simp [badArgument]

@[simp] theorem moveCommand_fixed (c : Cmd) (s : State) : (moveCommand c s).1.fixed = s.fixed := by
  unfold moveCommand; apply motionVerb_fixed; simp

@[simp] theorem homeCommand_fixed (c : Cmd) (s : State) : (homeCommand c s).1.fixed = s.fixed := by
  unfold homeCommand; apply motionVerb_fixed; simp

@[simp] theorem haltChannel_fixed (c : Cmd) (m : MotIx) (s : State) : (haltChannel c m s).1.fixed = s.fixed := by
  unfold haltChannel; repeat' split
  all_goals first | rfl | simp

@[simp] theorem haltCommand_fixed (c : Cmd) (s : State) : (haltCommand c s).1.fixed = s.fixed := by
  unfold haltCommand; apply motionVerb_fixed; simp

@[simp] theorem refreshHeld_fixed (n : NodeId) (t : Nat) (s : State) : (refreshHeld n t s).fixed = s.fixed :=
  foldState_fixed (f := refreshChannel n t) (fun _ _ => rfl) allMots s

@[simp] theorem holdCommand_fixed (c : Cmd) (s : State) : (holdCommand c s).1.fixed = s.fixed := by
  simp only [holdCommand, Op.set_run]; split <;> simp

@[simp] theorem setSoftFlag_fixed (i : Fin 4) (v : Bool) (s : State) : (setSoftFlag i v s).1.fixed = s.fixed := by
  unfold setSoftFlag; split <;> rfl

@[simp] theorem flagCommand_fixed (c : Cmd) (s : State) : (flagCommand c s).1.fixed = s.fixed := by
  unfold flagCommand; split <;> simp [badArgument]

@[simp] theorem cancelMatching_fixed (n : NodeId) (t : Nat) (m : MotIx) (s : State) :
    (cancelMatching n t m s).1.fixed = s.fixed := by
  unfold cancelMatching; split <;> simp

@[simp] theorem cancelCommand_fixed (c : Cmd) (s : State) : (cancelCommand c s).1.fixed = s.fixed := by
  unfold cancelCommand
  split
  · simp [each_fixed]
  · simp [badArgument]

@[simp] theorem restartMotion_fixed (m : MotIx) (s : State) : (restartMotion m s).1.fixed = s.fixed := by
  unfold restartMotion; apply cond_fixed <;> simp

@[simp] theorem restartDimmer_fixed (d : DimIx) (s : State) : (restartDimmer d s).fixed = s.fixed := by
  unfold restartDimmer; split <;> simp

@[simp] theorem warmRestart_fixed (s : State) : (warmRestart s).1.fixed = s.fixed := by
  unfold warmRestart
  apply chain_fixed
  intro a ha t
  simp only [List.mem_cons, List.not_mem_nil, or_false] at ha
  rcases ha with rfl | rfl | rfl | rfl | rfl | rfl | rfl
  · simp
  · apply each_fixed; simp
  · apply each_fixed; simp
  · apply each_fixed; simp
  · simp only [Op.set_run]; apply foldState_fixed; simp
  · rfl
  · apply each_fixed; simp

@[simp] theorem restartCommand_fixed (c : Cmd) (s : State) : (restartCommand c s).1.fixed = s.fixed := by
  unfold restartCommand; repeat' split
  all_goals simp [badArgument]

@[simp] theorem runCommand_fixed (c : Cmd) (s : State) : (runCommand c s).1.fixed = s.fixed := by
  unfold runCommand
  cases verbOf c.kind c.verb with
  | none => simp [badArgument]
  | some v => cases v <;> simp

@[simp] theorem takeUp_fixed (c : Cmd) (s : State) : (takeUp c s).1.fixed = s.fixed := by
  unfold takeUp; apply cond_fixed <;> simp

/-! ## Inputs -/

@[simp] theorem estopChange_fixed (b : Bool) (s : State) : (estopChange b s).1.fixed = s.fixed := by
  unfold estopChange
  split
  · simp only [Op.chain_cons, Op.chain_nil, Op.set_run, Op.emit_run]
    exact setLatch_fixed s
  · rfl

@[simp] theorem holdChange_fixed (m : MotIx) (b : Bool) (s : State) : (holdChange m b s).1.fixed = s.fixed := by
  unfold holdChange; apply cond_fixed <;> simp

@[simp] theorem fireBinding_fixed (i : InIx) (b : BindIx) (s : State) : (fireBinding i b s).1.fixed = s.fixed := by
  unfold fireBinding; apply cond_fixed <;> simp

@[simp] theorem releaseBinding_fixed (i : InIx) (b : BindIx) (s : State) :
    (releaseBinding i b s).1.fixed = s.fixed := by
  unfold releaseBinding; apply cond_fixed <;> simp

@[simp] theorem keyChange_fixed (i : InIx) (b : Bool) (s : State) : (keyChange i b s).1.fixed = s.fixed := by
  unfold keyChange
  split
  · apply cond_fixed
    · intro t; apply each_fixed; simp
    · simp
  · apply each_fixed; simp

@[simp] theorem roleChange_fixed (i : InIx) (b : Bool) (s : State) : (roleChange i b s).1.fixed = s.fixed := by
  unfold roleChange; repeat' split
  all_goals simp

/-! ## The work of an event -/

/-- No piece of work touches the fixed part. -/
@[simp] theorem perform_fixed (a : Act) (s : State) : (perform a s).1.fixed = s.fixed := by
  cases a <;> simp [perform]

/-- All the work of an event leaves the fixed part as it was. -/
theorem settle_fixed (x : State × List Act) : (settle x).fixed = x.1.fixed :=
  settle_keeps (P := fun t => t.fixed = x.1.fixed) (fun a t ht => (perform_fixed a t).trans ht) x rfl
@[simp] theorem settle_now (x : State × List Act) : (settle x).now = x.1.now := congrArg Fixed.now (settle_fixed x)
@[simp] theorem settle_mode (x : State × List Act) : (settle x).mode = x.1.mode := congrArg Fixed.mode (settle_fixed x)
@[simp] theorem settle_resetLow (x : State × List Act) : (settle x).resetLow = x.1.resetLow := congrArg Fixed.resetLow (settle_fixed x)
@[simp] theorem settle_faultOut (x : State × List Act) : (settle x).faultOut = x.1.faultOut := congrArg Fixed.faultOut (settle_fixed x)
@[simp] theorem settle_listenTimer (x : State × List Act) : (settle x).listenTimer = x.1.listenTimer := congrArg Fixed.listenTimer (settle_fixed x)
@[simp] theorem settle_cfg (x : State × List Act) : (settle x).cfg = x.1.cfg := congrArg Fixed.cfg (settle_fixed x)
@[simp] theorem settle_peers (x : State × List Act) : (settle x).peers = x.1.peers := congrArg Fixed.peers (settle_fixed x)
@[simp] theorem settle_pub (x : State × List Act) : (settle x).pub = x.1.pub := congrArg Fixed.pub (settle_fixed x)
@[simp] theorem settle_foreign (x : State × List Act) : (settle x).foreign = x.1.foreign := congrArg Fixed.foreign (settle_fixed x)
@[simp] theorem settle_saturated (x : State × List Act) : (settle x).saturated = x.1.saturated := congrArg Fixed.saturated (settle_fixed x)
@[simp] theorem settle_inputs (x : State × List Act) : (settle x).inputs = x.1.inputs := congrArg Fixed.inputs (settle_fixed x)
@[simp] theorem settle_pins (x : State × List Act) : (settle x).pins = x.1.pins := congrArg Fixed.pins (settle_fixed x)
@[simp] theorem settle_sense (x : State × List Act) : (settle x).sense = x.1.sense := congrArg Fixed.sense (settle_fixed x)
@[simp] theorem settle_fadeTimer (x : State × List Act) : (settle x).fadeTimer = x.1.fadeTimer := congrArg Fixed.fadeTimer (settle_fixed x)
@[simp] theorem settle_sampleTimer (x : State × List Act) : (settle x).sampleTimer = x.1.sampleTimer := congrArg Fixed.sampleTimer (settle_fixed x)
@[simp] theorem settle_inputTimer (x : State × List Act) : (settle x).inputTimer = x.1.inputTimer := congrArg Fixed.inputTimer (settle_fixed x)
@[simp] theorem settle_clashed (x : State × List Act) : (settle x).link.clashed = x.1.link.clashed := congrArg Fixed.clashed (settle_fixed x)
@[simp] theorem settle_joined (x : State × List Act) : (settle x).link.joined = x.1.link.joined := congrArg Fixed.joined (settle_fixed x)
@[simp] theorem settle_pending (x : State × List Act) : (settle x).pending = x.1.pending := congrArg Fixed.pending (settle_fixed x)

end Sys2Proof.Machine
end

