-- ==== Sys2Proof/Laws/Exec.lean ====
section
/-! SUPPORT. Once, everything a command can do: the operations that can run as an event, each with the occasion it needs,
and the inversion of exec and step into them. -/

namespace Sys2Proof.Machine

/-- The operations of the events, each with its occasion in the state at which it runs. -/
inductive Occasion (s : State) : Op → Prop where
  | imageRead (image pins sense) (hm : s.mode = .loading) (hr : s.resetLow = false) :
      Occasion s (endImageRead image pins sense)
  | listenEnd (h : s.mode = .listen) : Occasion s enterReady
  | attemptFails (h : s.link.busy = true) : Occasion s failAttempt
  | attemptEnds (h : s.link.busy = true) : Occasion s completeAttempt
  | clash (h : s.link.clashed = false) (hb : s.built = true) : Occasion s enterSilentClash
  | status (f : Frame) (h : s.reception .status f = .delivered)
      (hd : (s.peer (frameSource f)).duplicates (byteAt f.payload 0) = false) :
      Occasion s (acceptStatus (frameSource f) f.payload)
  | claim (f : Frame) (h : s.reception .claim f = .delivered) : Occasion s (takeClaim f)
  | answer (f : Frame) (h : s.reception .answer f = .delivered) : Occasion s (Op.set (takeAnswer f.payload))
  | scene (f : Frame) (h : s.reception .scene f = .delivered) : Occasion s (Op.set (takeScene f.payload))
  | cue (f : Frame) (h : s.reception .cue f = .delivered) : Occasion s (Op.set (applyCue (byteAt f.payload 0)))
  | stop (f : Frame) (h : s.reception .stop f = .delivered) : Occasion s setLatch
  | release (f : Frame) (h : s.reception .release f = .delivered) (hr : s.releases (frameSource f) = true) :
      Occasion s (Op.set (fun t => { t with stopLatch := false }))
  | command (v : Option Verb) (f : Frame) (h : s.reception .command f = .delivered)
      (ht : cmdTarget f.payload = s.cfg.ownId) (hv : verbOf (cmdKind f.payload) (cmdVerb f.payload) = v) :
      Occasion s (runCommand (frameCmd s.cfg f))
  | peerLate (n : NodeId) (h : (s.peer n).freshness = .fresh) :
      Occasion s (changeFreshness n (fun e => { e with freshness := .late }))
  | peerLost (n : NodeId) (h : (s.peer n).freshness = .late) :
      Occasion s (changeFreshness n (fun e => { e with freshness := .lost, since := .stopped (ms Config.lostMs) }))
  | compose (h : s.pub.active = true) : Occasion s (Op.set compose)
  | deepen (g : SegIx) (h : (s.seg g).shed = .shed1) : Occasion s (Op.set (deepenShed g))
  | recover (g : SegIx) (h : (s.seg g).shed ≠ .normal) : Occasion s (Op.set (recoverShed g))
  | fadeTick : Occasion s fadeTick
  | fadeEnd (d : DimIx) (h : (s.dim d).fade.isSome = true) : Occasion s (Op.set (endDimmerFade d))
  | stopFadeEnd (m : MotIx) (h : (s.mot m).state = .stopping) : Occasion s (stepSpeedTo m (fun f => f.steps))
  | sample (readings) : Occasion s (sampleCurrents readings)
  | input (i : InIx) (active : Bool) (hb : s.built = true) (h : (s.input i).filtered ≠ active) :
      Occasion s (acceptChange i active)
  | repeatHold (b : BindIx) : Occasion s (repeatHold b)
  | rebroadcast : Occasion s rebroadcastStop
  | settleEnd (m : MotIx) (hc : (s.claim m).state = .opened) (h : (s.mot m).state = .claiming) :
      Occasion s (settleClaim m)
  | claimHoldEnd (m : MotIx) (h : (s.claim m).state = .held) : Occasion s (Op.chain [Op.set (endHold m), enterRunning m])
  | foreignExpiry (n : NodeId) (tag : Nat) : Occasion s (Op.set (removeClaim n tag))
  | pendingExpiry (n : NodeId) (tag : Nat) : Occasion s (removePending n tag .expired)
  | deadTimeEnd (m : MotIx) (h : (s.mot m).state = .settling) : Occasion s (endDeadTime m)
  | holdDeadline (m : MotIx) (h : (s.mot m).holder.isSome = true) : Occasion s (loseHold m)
  | stall (m : MotIx) (h : (s.mot m).state.isDriven = true) : Occasion s (trip m .stall)
  | sceneAge (n : Nat) : Occasion s (Op.set (discardScene n))

/-- Where the passing of time leads: the clock and the filters go on, the choice among changes of one moment is counted, and
accepted changes are handed on, each as an event of its own. -/
inductive Passes (s : State) : State → Prop where
  | refl : Passes s s
  | clock (u : State) (t : Nat) (h : Passes s u) : Passes s (u.clockTo t)
  | choice (u : State) (h : Passes s u) : Passes s { u with choices := u.choices + 1 }
  | change (u : State) (op : Op) (h : Passes s u) (ho : Occasion u op) : Passes s (event op u)

/-- What a command leaves. -/
inductive Leaves (s : State) : State → Prop where
  | same : Leaves s s
  | cold (low : Bool) : Leaves s { coldStart s with resetLow := low }
  | idleLine (h : s.built = true) : Leaves s (lineBecomesIdle s)
  | lostArbitration : Leaves s (loseArbitration s)
  | event (op : Op) (h : Occasion s op) : Leaves s (event op s)
  | passed (u : State) (h : Passes s u) : Leaves s u
  | expiry (u : State) (op : Op) (hp : Passes s u) (h : Occasion u op) : Leaves s (Machine.event op u)

/-! ## The clock and the records -/

/-- A PWM period begins on the way to a moment. -/
def State.crosses (s : State) (t : Nat) : Bool := decide (s.now < t) && decide (s.now / Config.pwmUs < t / Config.pwmUs)

theorem State.clockTo_mot (s : State) (t : Nat) (m : MotIx) :
    (s.clockTo t).mot m = if s.crosses t then { s.mot m with speedActive := (s.mot m).speedWaiting } else s.mot m := by
  unfold State.clockTo State.crosses
  by_cases h : t ≤ s.now
  · have h' : ¬ s.now < t := by omega
    simp [h, h']
  · have h' : s.now < t := by omega
    by_cases hp : s.now / Config.pwmUs < t / Config.pwmUs <;> simp [h, h', hp, State.mot, State.copyStages]

theorem State.clockTo_dim (s : State) (t : Nat) (d : DimIx) :
    (s.clockTo t).dim d = if s.crosses t then { s.dim d with active := (s.dim d).waiting } else s.dim d := by
  unfold State.clockTo State.crosses
  by_cases h : t ≤ s.now
  · have h' : ¬ s.now < t := by omega
    simp [h, h']
  · have h' : s.now < t := by omega
    by_cases hp : s.now / Config.pwmUs < t / Config.pwmUs <;> simp [h, h', hp, State.dim, State.copyStages]

@[simp] theorem State.clockTo_mot_state (s : State) (t : Nat) (m : MotIx) :
    ((s.clockTo t).mot m).state = (s.mot m).state := by rw [State.clockTo_mot]; split <;> rfl

@[simp] theorem State.clockTo_mot_holder (s : State) (t : Nat) (m : MotIx) :
    ((s.clockTo t).mot m).holder = (s.mot m).holder := by rw [State.clockTo_mot]; split <;> rfl

@[simp] theorem State.clockTo_dim_fade (s : State) (t : Nat) (d : DimIx) :
    ((s.clockTo t).dim d).fade = (s.dim d).fade := by rw [State.clockTo_dim]; split <;> rfl

@[simp] theorem State.clockTo_seg (s : State) (t : Nat) (g : SegIx) : (s.clockTo t).seg g = s.seg g := by
  simp [State.seg]
@[simp] theorem State.clockTo_claim (s : State) (t : Nat) (m : MotIx) : (s.clockTo t).claim m = s.claim m := by
  simp [State.claim]
@[simp] theorem State.clockTo_peer (s : State) (t : Nat) (n : NodeId) : (s.clockTo t).peer n = s.peer n := by
  simp [State.peer]
@[simp] theorem State.clockTo_press (s : State) (t : Nat) (b : BindIx) : (s.clockTo t).press b = s.press b := by
  simp [State.press]
@[simp] theorem State.clockTo_segCfg (s : State) (t : Nat) : (s.clockTo t).segCfg = s.segCfg := by
  funext g; simp [State.segCfg]
@[simp] theorem State.clockTo_dimCfg (s : State) (t : Nat) : (s.clockTo t).dimCfg = s.dimCfg := by
  funext g; simp [State.dimCfg]
@[simp] theorem State.clockTo_motCfg (s : State) (t : Nat) : (s.clockTo t).motCfg = s.motCfg := by
  funext g; simp [State.motCfg]
@[simp] theorem State.clockTo_binding (s : State) (t : Nat) : (s.clockTo t).binding = s.binding := by
  funext g; simp [State.binding]

/-! ## The inversion of exec -/

/-- Time passes as `Passes` says. -/
theorem Passes.of_passTo (s : State) (t : Nat) : Passes s (s.passTo t) :=
  passTo_keeps (P := Passes s) (fun t u h => .clock u t h) (fun u h => .choice u h)
    (fun i u h ha => .change u _ h (.input i _ (built_of_accepted ha)
      (by cases (u.input i).filtered <;> simp)))
    t s .refl

theorem Leaves.of_expiry {s : State} (due : State → Option Nat) (op : Op) (h : ∀ u t, due u = some t → Occasion u op) :
    Leaves s (Machine.expiry due op s) := by
  unfold Machine.expiry
  split
  · exact .same
  · split
    · rename_i ht; exact .expiry _ op (Passes.of_passTo s _) (h _ _ ht)
    · exact .passed _ (Passes.of_passTo s _)

theorem event_cond {c : State → Bool} {a b : Op} (s : State) :
    event (Op.cond c a b) s = if c s then event a s else event b s := by
  simp only [event, Op.cond]; split <;> rfl

theorem Leaves.of_arrival {s : State} (k : Kind) (f : Frame) (op : Op)
    (h : s.reception k f = .delivered → Leaves s (Machine.event op s)) : Leaves s (arrival k f op s) := by
  unfold arrival
  cases hr : s.reception k f with
  | nothing => exact .same
  | delivered => exact h hr
  | clash =>
    refine .event _ (.clash ?_ ?_)
    · unfold State.reception at hr
      split at hr <;> try contradiction
      split at hr <;> try contradiction
      split at hr <;> try contradiction
      split at hr
      · split at hr <;> simp_all
      · split at hr <;> contradiction
    · unfold State.reception at hr
      split at hr
      · contradiction
      · rename_i hb
        simp only [State.receives, Bool.not_eq_true', Bool.not_eq_false, Bool.and_eq_true] at hb
        exact hb.1

theorem Leaves.of_command {s : State} (v : Option Verb) (f : Frame) (obey : Cmd → Op)
    (h : ∀ c : Cmd, verbOf c.kind c.verb = v → runCommand c = obey c) : Leaves s (commandArrival v f obey s) := by
  unfold commandArrival
  refine .of_arrival _ _ _ fun hr => ?_
  rw [event_cond]
  split
  · rename_i hc
    simp only [Bool.and_eq_true, decide_eq_true_eq, beq_iff_eq] at hc
    rw [← h (frameCmd s.cfg f) hc.2]
    exact .event _ (.command v f hr hc.1 hc.2)
  · rw [event_skip]; exact .same

theorem Timer.due_running {t : Timer} {n u : Nat} (h : t.due n = some u) : ∃ since, t = .running since := by
  cases t with
  | stopped _ => cases h
  | running since => exact ⟨since, rfl⟩

/-- Every command answers a next state, which is one of those that `Leaves` names. -/
theorem exec_leaves (c : Instr) (s : State) : ∃ t, exec c s = .next t ∧ Leaves s t := by
  cases c with
  | powerOn => exact ⟨_, rfl, .cold s.resetLow⟩
  | resetLow => exact ⟨_, rfl, .cold true⟩
  | resetHigh =>
    refine ⟨_, rfl, ?_⟩
    by_cases h : s.resetLow = true
    · rw [if_pos h]; exact .cold false
    · rw [if_neg h]; exact .same
  | imageReadEnd image pins sense =>
    refine ⟨_, rfl, ?_⟩
    split
    · rename_i h; exact .event _ (.imageRead image pins sense h.1 h.2)
    · exact .same
  | listenTimerExpiry =>
    refine ⟨_, rfl, .of_expiry _ _ fun u t h => .listenEnd ?_⟩
    unfold State.listenDue at h
    split at h
    · assumption
    · cases h
  | lineIdle =>
    refine ⟨_, rfl, ?_⟩
    split
    · rename_i h; exact .idleLine h
    · exact .same
  | arbitrationLoss => exact ⟨_, rfl, .lostArbitration⟩
  | transmitError =>
    refine ⟨_, rfl, ?_⟩
    split
    · rename_i h; exact .event _ (.attemptFails h)
    · exact .same
  | frameSent =>
    refine ⟨_, rfl, ?_⟩
    split
    · rename_i h; exact .event _ (.attemptEnds h)
    · exact .same
  | statusArrival f =>
    refine ⟨_, rfl, .of_arrival _ _ _ fun hr => ?_⟩
    rw [event_cond]
    split
    · rw [event_skip]; exact .same
    · rename_i h; exact .event _ (.status f hr (by simpa using h))
  | claimArrival f => exact ⟨_, rfl, .of_arrival _ _ _ fun hr => .event _ (.claim f hr)⟩
  | answerArrival f => exact ⟨_, rfl, .of_arrival _ _ _ fun hr => .event _ (.answer f hr)⟩
  | sceneArrival f => exact ⟨_, rfl, .of_arrival _ _ _ fun hr => .event _ (.scene f hr)⟩
  | cueArrival f => exact ⟨_, rfl, .of_arrival _ _ _ fun hr => .event _ (.cue f hr)⟩
  | stopArrival f => exact ⟨_, rfl, .of_arrival _ _ _ fun hr => .event _ (.stop f hr)⟩
  | releaseArrival f =>
    refine ⟨_, rfl, .of_arrival _ _ _ fun hr => ?_⟩
    by_cases h : s.releases (frameSource f) = true
    · have e : event (Op.set fun t => if t.releases (frameSource f) then { t with stopLatch := false } else t) s =
          event (Op.set (fun t => { t with stopLatch := false })) s := by
        simp only [event_set, h, if_true]
      rw [e]; exact .event _ (.release f hr h)
    · have e : event (Op.set fun t => if t.releases (frameSource f) then { t with stopLatch := false } else t) s = s := by
        simp [event_set, h]
      rw [e]; exact .same
  | set f => exact ⟨_, rfl, .of_command _ _ _ fun c h => by simp [runCommand, h]⟩
  | nudge f => exact ⟨_, rfl, .of_command _ _ _ fun c h => by simp [runCommand, h]⟩
  | freeze f => exact ⟨_, rfl, .of_command _ _ _ fun c h => by simp [runCommand, h]⟩
  | move f => exact ⟨_, rfl, .of_command _ _ _ fun c h => by simp [runCommand, h]⟩
  | home f => exact ⟨_, rfl, .of_command _ _ _ fun c h => by simp [runCommand, h]⟩
  | hold f => exact ⟨_, rfl, .of_command _ _ _ fun c h => by simp [runCommand, h]⟩
  | halt f => exact ⟨_, rfl, .of_command _ _ _ fun c h => by simp [runCommand, h]⟩
  | flag f => exact ⟨_, rfl, .of_command _ _ _ fun c h => by simp [runCommand, h]⟩
  | cancel f => exact ⟨_, rfl, .of_command _ _ _ fun c h => by simp [runCommand, h]⟩
  | restart f => exact ⟨_, rfl, .of_command _ _ _ fun c h => by simp [runCommand, h]⟩
  | unknownVerbCommand f => exact ⟨_, rfl, .of_command _ _ _ fun c h => by simp [runCommand, h]⟩
  | peerLate n =>
    refine ⟨_, rfl, .of_expiry _ _ fun u t h => .peerLate n ?_⟩
    unfold State.lateDue at h
    split at h
    · simpa
    · cases h
  | peerLost n =>
    refine ⟨_, rfl, .of_expiry _ _ fun u t h => .peerLost n ?_⟩
    unfold State.lostDue at h
    split at h
    · simpa
    · cases h
  | periodTimerExpiry =>
    refine ⟨_, rfl, .of_expiry _ _ fun u t h => .compose ?_⟩
    unfold State.periodDue at h
    split at h
    · simpa
    · cases h
  | spacingTimeExpiry =>
    refine ⟨_, rfl, .of_expiry _ _ fun u t h => .compose ?_⟩
    unfold State.spacingDue at h
    split at h
    · simp_all
    · cases h
  | deepenTimerExpiry g =>
    refine ⟨_, rfl, .of_expiry _ _ fun u t h => .deepen g ?_⟩
    unfold State.deepenDue at h
    split at h
    · simpa
    · cases h
  | recoveryTimerExpiry g =>
    refine ⟨_, rfl, .of_expiry _ _ fun u t h => .recover g ?_⟩
    unfold State.recoveryDue at h
    split at h
    · simpa
    · cases h
  | fadeTick => exact ⟨_, rfl, .of_expiry _ _ fun u t _ => .fadeTick⟩
  | fadeEnd d =>
    refine ⟨_, rfl, .of_expiry _ _ fun u t h => .fadeEnd d ?_⟩
    unfold State.fadeEndDue at h
    obtain ⟨f, hf, -⟩ := Option.bind_eq_some_iff.mp h
    simp [hf]
  | stoppingFadeEnd m =>
    refine ⟨_, rfl, .of_expiry _ _ fun u t h => .stopFadeEnd m ?_⟩
    unfold State.stopFadeDue at h
    split at h
    · simpa
    · cases h
  | currentSample readings => exact ⟨_, rfl, .of_expiry _ _ fun u t _ => .sample readings⟩
  | inputChangeAccepted i active =>
    refine ⟨_, rfl, ?_⟩
    split
    · rename_i h
      simp only [Bool.and_eq_true, decide_eq_true_eq] at h
      exact .event _ (.input i active h.1 h.2)
    · exact .same
  | holdRepetition b => exact ⟨_, rfl, .of_expiry _ _ fun u t _ => .repeatHold b⟩
  | reBroadcastTimerExpiry => exact ⟨_, rfl, .of_expiry _ _ fun u t _ => .rebroadcast⟩
  | settleEnd m =>
    refine ⟨_, rfl, .of_expiry _ _ fun u t h => ?_⟩
    unfold State.settleDue at h
    split at h
    · rename_i hc; exact .settleEnd m (by simpa using hc.1) (by simpa using hc.2)
    · cases h
  | claimHoldExpiry m =>
    refine ⟨_, rfl, .of_expiry _ _ fun u t h => .claimHoldEnd m ?_⟩
    unfold State.claimHoldDue at h
    split at h
    · simpa
    · cases h
  | foreignClaimExpiry n tag => exact ⟨_, rfl, .of_expiry _ _ fun u t _ => .foreignExpiry n tag⟩
  | pendingDeadlineExpiry n tag => exact ⟨_, rfl, .of_expiry _ _ fun u t _ => .pendingExpiry n tag⟩
  | deadTimeEnd m =>
    refine ⟨_, rfl, .of_expiry _ _ fun u t h => .deadTimeEnd m ?_⟩
    unfold State.deadDue at h
    split at h
    · simpa
    · cases h
  | holdDeadlineExpiry m =>
    refine ⟨_, rfl, .of_expiry _ _ fun u t h => .holdDeadline m ?_⟩
    unfold State.holdDeadlineDue at h
    split at h
    all_goals first
      | exact absurd h (by simp)
      | (obtain ⟨x, hx, -⟩ := Option.bind_eq_some_iff.mp h; simp [hx])
  | stallTimerExpiry m =>
    refine ⟨_, rfl, .of_expiry _ _ fun u t h => .stall m ?_⟩
    unfold State.stallDue at h
    split at h
    · simp_all
    · cases h
  | sceneAgeTimerExpiry scene => exact ⟨_, rfl, .of_expiry _ _ fun u t _ => .sceneAge scene.toNat⟩

/-- What the clock, the count of choices and every event keep, the passing of time keeps. -/
theorem passes_keeps {P : State → Prop} (ht : ∀ s t, P s → P (s.clockTo t))
    (hc : ∀ s, P s → P { s with choices := s.choices + 1 }) (he : ∀ s op, P s → Occasion s op → P (event op s))
    {s u : State} (hp : Passes s u) (hs : P s) : P u := by
  induction hp with
  | refl => exact hs
  | clock u t _ ih => exact ht u t ih
  | choice u _ ih => exact hc u ih
  | change u op _ ho ih => exact he u op ih ho

/-- What holds of everything a command leaves, holds after every command. -/
theorem exec_keeps {P : State → Prop} (h : ∀ s t, P s → Leaves s t → P t) (c : Instr) (s : State) (hs : P s) :
    ∃ t, exec c s = .next t ∧ P t := by
  obtain ⟨t, ht, hl⟩ := exec_leaves c s
  exact ⟨t, ht, h s t hs hl⟩

/-- What every event keeps, and with it the clock, the start of a cold start and the two commands of the line that are no
events, every step keeps: the queue of commands and the count of choices are the model's own. -/
theorem step_keeps {P : State → Prop} (hq : ∀ s q, P s → P { s with pending := q })
    (hc : ∀ s, P s → P { s with choices := s.choices + 1 }) (ht : ∀ s t, P s → P (s.clockTo t))
    (hcold : ∀ s low, P s → P { coldStart s with resetLow := low })
    (hl : ∀ s, P s → s.built = true → P (lineBecomesIdle s)) (ha : ∀ s, P s → P (loseArbitration s))
    (he : ∀ s op, P s → Occasion s op → P (event op s)) (s t : State) (hs : P s) (h : step s = .next t) : P t := by
  unfold step at h
  split at h
  · rw [← Host.Outcome.next.inj h]
    unfold State.idle
    split
    · exact ht s _ hs
    · exact hq s _ hs
    · exact hq _ _ (hc s hs)
  · rename_i c rest _
    obtain ⟨u, hu, hp⟩ := exec_keeps (P := P) (fun s t hs hl' => by
      cases hl' with
      | same => exact hs
      | cold low => exact hcold s low hs
      | idleLine h => exact hl s hs h
      | lostArbitration => exact ha s hs
      | event op h => exact he s op hs h
      | passed u h => exact passes_keeps ht hc he h hs
      | expiry u op h ho => exact he u op (passes_keeps ht hc he h hs) ho) c _ (hq s rest hs)
    rw [hu] at h
    rw [← Host.Outcome.next.inj h]
    exact hp

end Sys2Proof.Machine
end

