-- ==== Sys2Proof/Laws/Lights.lean ====
section
/-! SUPPORT. What the Budget, Dimmer and Scene Units can touch: their operations change dimmer channels, segment records
and assemblies, and nothing else. One lemma for each shared operation. -/

namespace Sys2Proof.Machine

/-- The state without its dimmer channels and segment records. -/
def State.unlit (s : State) : State :=
  { s with dims := Vector.replicate 12 .blank, segs := Vector.replicate 4 (.blank 0) }

/-- The state without those, the assemblies and the partial-cue flag. -/
def State.offstage (s : State) : State := { s.unlit with scenes := [], partialCue := false }

theorem foldState_unlit {α : Type} {f : α → State → State} (h : ∀ a s, (f a s).unlit = s.unlit) (l : List α)
    (s : State) : (foldState f l s).unlit = s.unlit :=
  foldState_keeps (P := fun t => t.unlit = s.unlit) (fun a t ht => (h a t).trans ht) l s rfl

theorem foldState_offstage {α : Type} {f : α → State → State} (h : ∀ a s, (f a s).offstage = s.offstage) (l : List α)
    (s : State) : (foldState f l s).offstage = s.offstage :=
  foldState_keeps (P := fun t => t.offstage = s.offstage) (fun a t ht => (h a t).trans ht) l s rfl

theorem offstage_of_unlit {s t : State} (h : t.unlit = s.unlit) : t.offstage = s.offstage := by
  unfold State.offstage; rw [h]

/-! ## Budget and Dimmer Units -/

@[simp] theorem modSeg_unlit (g : SegIx) (f) (s : State) : (s.modSeg g f).unlit = s.unlit := rfl
@[simp] theorem modDim_unlit (d : DimIx) (f) (s : State) : (s.modDim d f).unlit = s.unlit := rfl
@[simp] theorem tally_unlit (g : SegIx) (s : State) : (tally g s).unlit = s.unlit := rfl
@[simp] theorem beginFade_unlit (d : DimIx) (t n : Nat) (s : State) : (beginFade d t n s).unlit = s.unlit := rfl
@[simp] theorem requestCore_unlit (d : DimIx) (q n : Nat) (s : State) : (requestCore d q n s).unlit = s.unlit := rfl
@[simp] theorem emptySlot_unlit (d : DimIx) (s : State) : (emptySlot d s).unlit = s.unlit := rfl
@[simp] theorem loadSlot_unlit (d : DimIx) (n l f : Nat) (s : State) : (loadSlot d n l f s).unlit = s.unlit := rfl

@[simp] theorem capClass_unlit (g : SegIx) (c : Nat) (s : State) : (capClass g c s).unlit = s.unlit := by
  unfold capClass
  rw [foldState_unlit, foldState_unlit] <;> intro a t <;> split <;> simp

@[simp] theorem uncapClass_unlit (g : SegIx) (c : Nat) (s : State) : (uncapClass g c s).unlit = s.unlit := by
  unfold uncapClass
  rw [foldState_unlit]; intro a t; split <;> simp

@[simp] theorem enterShed1_unlit (g : SegIx) (s : State) : (enterShed1 g s).unlit = s.unlit := by
  unfold enterShed1; split <;> simp

@[simp] theorem recompute_unlit (g : SegIx) (s : State) : (recompute g s).unlit = s.unlit := by simp [recompute]

@[simp] theorem recomputeAll_unlit (s : State) : (recomputeAll s).unlit = s.unlit := by
  unfold recomputeAll; exact foldState_unlit recompute_unlit _ _

@[simp] theorem request_unlit (d : DimIx) (q n : Nat) (s : State) : (request d q n s).unlit = s.unlit := by
  simp [request]

@[simp] theorem capUpkeep_unlit (d : DimIx) (s : State) : (capUpkeep d s).unlit = s.unlit := by
  unfold capUpkeep; split <;> simp

@[simp] theorem endFadeHere_unlit (d : DimIx) (s : State) : (endFadeHere d s).unlit = s.unlit := by
  unfold endFadeHere; split <;> simp

@[simp] theorem freezeDimmer_unlit (d : DimIx) (s : State) : (freezeDimmer d s).unlit = s.unlit := by
  unfold freezeDimmer; split <;> simp

@[simp] theorem stepDimmerTo_unlit (d : DimIx) (k : Fade → Nat) (s : State) : (stepDimmerTo d k s).unlit = s.unlit := by
  unfold stepDimmerTo; split <;> simp

@[simp] theorem stepDimmer_unlit (d : DimIx) (s : State) : (stepDimmer d s).unlit = s.unlit := stepDimmerTo_unlit d _ s

@[simp] theorem endDimmerFade_unlit (d : DimIx) (s : State) : (endDimmerFade d s).unlit = s.unlit :=
  stepDimmerTo_unlit d _ s

@[simp] theorem applyStartLevels_unlit (s : State) : (applyStartLevels s).unlit = s.unlit := by
  unfold applyStartLevels; apply foldState_unlit; intro d t; split <;> simp

@[simp] theorem restartDimmer_unlit (d : DimIx) (s : State) : (restartDimmer d s).unlit = s.unlit := by
  unfold restartDimmer; split <;> simp

@[simp] theorem deepenShed_unlit (g : SegIx) (s : State) : (deepenShed g s).unlit = s.unlit := by simp [deepenShed]

@[simp] theorem recoverShed_unlit (g : SegIx) (s : State) : (recoverShed g s).unlit = s.unlit := by
  unfold recoverShed; split <;> simp

/-! ## Scene Unit -/

@[simp] theorem scenes_offstage (l : List Assembly) (s : State) : State.offstage { s with scenes := l } = s.offstage := rfl
@[simp] theorem cue_offstage (l : List Assembly) (b : Bool) (s : State) :
    State.offstage { s with scenes := l, partialCue := b } = s.offstage := rfl
@[simp] theorem modScene_offstage (n : Nat) (f) (s : State) : (s.modScene n f).offstage = s.offstage := rfl
@[simp] theorem loseEntry_offstage (n : Nat) (s : State) : (loseEntry n s).offstage = s.offstage := rfl
@[simp] theorem gainEntry_offstage (n : Nat) (s : State) : (gainEntry n s).offstage = s.offstage := rfl
@[simp] theorem createScene_offstage (n c : Nat) (s : State) : (createScene n c s).offstage = s.offstage := rfl
@[simp] theorem recordPart_offstage (n k : Nat) (s : State) : (recordPart n k s).offstage = s.offstage := rfl
@[simp] theorem emptySlot_offstage (d : DimIx) (s : State) : (emptySlot d s).offstage = s.offstage := rfl
@[simp] theorem loadSlot_offstage (d : DimIx) (n l f : Nat) (s : State) : (loadSlot d n l f s).offstage = s.offstage :=
  rfl
@[simp] theorem request_offstage (d : DimIx) (q n : Nat) (s : State) : (request d q n s).offstage = s.offstage :=
  offstage_of_unlit (request_unlit d q n s)

@[simp] theorem discardScene_offstage (n : Nat) (s : State) : (discardScene n s).offstage = s.offstage := by
  unfold discardScene
  rw [scenes_offstage]
  exact foldState_offstage (fun d t => by split <;> simp) _ _

@[simp] theorem findScene_offstage (n c : Nat) (s : State) : (findScene n c s).offstage = s.offstage := by
  unfold findScene; repeat' split
  all_goals simp

@[simp] theorem takeEntry_offstage (n fade : Nat) (first : Bool) (e : Nat × Nat) (s : State) :
    (takeEntry n fade first e s).offstage = s.offstage := by
  unfold takeEntry loadEntry loseUnusable; dsimp only; repeat' split
  all_goals simp

@[simp] theorem takePart_offstage (n c k fade : Nat) (l : List (Nat × Nat)) (s : State) :
    (takePart n c k fade l s).offstage = s.offstage := by
  unfold takePart; dsimp only
  rw [foldState_offstage (takeEntry_offstage n fade _)]; simp

@[simp] theorem takeScene_offstage (p : List Byte) (s : State) : (takeScene p s).offstage = s.offstage := by
  unfold takeScene; split <;> simp

@[simp] theorem applySlots_offstage (n : Nat) (s : State) : (applySlots n s).offstage = s.offstage := by
  unfold applySlots; apply foldState_offstage; intro d t
  split
  · split <;> simp
  · rfl

@[simp] theorem applyCue_offstage (n : Nat) (s : State) : (applyCue n s).offstage = s.offstage := by
  unfold applyCue; split
  · simp
  · split
    · rfl
    · rw [cue_offstage, applySlots_offstage]

@[simp] theorem preload_offstage (d : DimIx) (l f : Nat) (s : State) : (preload d l f s).offstage = s.offstage := by
  unfold preload; dsimp only; split <;> simp

@[simp] theorem setLevel_offstage (d : DimIx) (l f : Nat) (s : State) : (setLevel d l f s).offstage = s.offstage := by
  unfold setLevel; split <;> simp

end Sys2Proof.Machine
end

