-- ==== Sys2Proof/Laws/Motion.lean ====
section
/-! SUPPORT. What each shared operation of the Motion and Claim Units leaves in its channel and its claim, said once, and
that it leaves every other channel and claim alone. -/

namespace Sys2Proof.Machine

/-! ## A recomputation leaves everything but the lights alone -/

section Recompute

variable (g : SegIx) (s : State)

@[simp] theorem recompute_now : (recompute g s).now = s.now := (congrArg State.now (recompute_unlit g s) :)
@[simp] theorem recompute_mode : (recompute g s).mode = s.mode := (congrArg State.mode (recompute_unlit g s) :)
@[simp] theorem recompute_cfg : (recompute g s).cfg = s.cfg := (congrArg State.cfg (recompute_unlit g s) :)
@[simp] theorem recompute_link : (recompute g s).link = s.link := (congrArg State.link (recompute_unlit g s) :)
@[simp] theorem recompute_peers : (recompute g s).peers = s.peers := (congrArg State.peers (recompute_unlit g s) :)
@[simp] theorem recompute_foreign : (recompute g s).foreign = s.foreign :=
  (congrArg State.foreign (recompute_unlit g s) :)
@[simp] theorem recompute_saturated : (recompute g s).saturated = s.saturated :=
  (congrArg State.saturated (recompute_unlit g s) :)
@[simp] theorem recompute_claims : (recompute g s).claims = s.claims := (congrArg State.claims (recompute_unlit g s) :)
@[simp] theorem recompute_motionQueue : (recompute g s).motionQueue = s.motionQueue :=
  (congrArg State.motionQueue (recompute_unlit g s) :)
@[simp] theorem recompute_softFlags : (recompute g s).softFlags = s.softFlags :=
  (congrArg State.softFlags (recompute_unlit g s) :)
@[simp] theorem recompute_inputs : (recompute g s).inputs = s.inputs := (congrArg State.inputs (recompute_unlit g s) :)
@[simp] theorem recompute_mots : (recompute g s).mots = s.mots := (congrArg State.mots (recompute_unlit g s) :)
@[simp] theorem recompute_stopLatch : (recompute g s).stopLatch = s.stopLatch :=
  (congrArg State.stopLatch (recompute_unlit g s) :)
@[simp] theorem recompute_mot : (recompute g s).mot = s.mot := by funext m; simp [State.mot]
@[simp] theorem recompute_claim : (recompute g s).claim = s.claim := by funext m; simp [State.claim]
@[simp] theorem recompute_peer : (recompute g s).peer = s.peer := by funext m; simp [State.peer]
@[simp] theorem recompute_input : (recompute g s).input = s.input := by funext m; simp [State.input]
@[simp] theorem recompute_motCfg : (recompute g s).motCfg = s.motCfg := by funext m; simp [State.motCfg]
@[simp] theorem recompute_segCfg : (recompute g s).segCfg = s.segCfg := by funext m; simp [State.segCfg]
@[simp] theorem recompute_dimCfg : (recompute g s).dimCfg = s.dimCfg := by funext m; simp [State.dimCfg]

end Recompute

/-! ## Records that stay as they are -/

theorem State.modMot_self (s : State) (m : MotIx) (f : MotionCh → MotionCh) (h : f (s.mot m) = s.mot m) :
    s.modMot m f = s := by
  unfold State.modMot; rw [h]; simp [State.mot]

/-- The operation touches the channel and the claim of its own index only. -/
def Op.OnlyChannel (m : MotIx) (op : Op) : Prop :=
  ∀ s k, k ≠ m → (op s).1.mot k = s.mot k ∧ (op s).1.claim k = s.claim k

theorem Op.onlyChannel_skip (m : MotIx) : Op.OnlyChannel m Op.skip := fun _ _ _ => ⟨rfl, rfl⟩

theorem Op.onlyChannel_emit (m : MotIx) (f : State → List Act) : Op.OnlyChannel m (Op.emit f) := fun _ _ _ => ⟨rfl, rfl⟩

theorem Op.onlyChannel_andThen {m : MotIx} {a b : Op} (ha : Op.OnlyChannel m a) (hb : Op.OnlyChannel m b) :
    Op.OnlyChannel m (Op.andThen a b) := fun s k hk =>
  ⟨((hb (a s).1 k hk).1).trans (ha s k hk).1, ((hb (a s).1 k hk).2).trans (ha s k hk).2⟩

theorem Op.onlyChannel_chain {m : MotIx} {l : List Op} (h : ∀ a ∈ l, Op.OnlyChannel m a) :
    Op.OnlyChannel m (Op.chain l) := by
  induction l with
  | nil => exact Op.onlyChannel_skip m
  | cons a l ih =>
    exact Op.onlyChannel_andThen (h a (List.mem_cons_self ..)) (ih fun b hb => h b (List.mem_cons_of_mem _ hb))

theorem Op.onlyChannel_cond {m : MotIx} {c : State → Bool} {a b : Op} (ha : Op.OnlyChannel m a)
    (hb : Op.OnlyChannel m b) : Op.OnlyChannel m (Op.cond c a b) := fun s k hk => by
  unfold Op.cond; split
  · exact ha s k hk
  · exact hb s k hk

theorem Op.onlyChannel_modMot (m : MotIx) (f : State → MotionCh → MotionCh) :
    Op.OnlyChannel m (Op.set (fun s => s.modMot m (f s))) := fun s k hk => by
  simp [State.modMot_get, hk]

theorem Op.onlyChannel_modClaim (m : MotIx) (f : State → OwnClaim → OwnClaim) :
    Op.OnlyChannel m (Op.set (fun s => s.modClaim m (f s))) := fun s k hk => by
  simp [State.modClaim_get, hk]

/-! ## Posture -/

/-- The posture kept becomes the posture derived. -/
@[simp] theorem refreshPosture_fst (m : MotIx) (s : State) :
    (refreshPosture m s).1 = s.modMot m (fun c => { c with posture := s.derivePosture m }) := by
  unfold refreshPosture; split
  · rename_i h
    rw [State.modMot_self]
    rw [h]
  · rfl

theorem refreshPosture_onlyChannel (m : MotIx) : Op.OnlyChannel m (refreshPosture m) := fun s k hk => by
  simp [State.modMot_get, hk]

/-! ## Claims -/

/-- A withdrawal leaves no claim, whatever stood. -/
@[simp] theorem withdraw_state (m : MotIx) (s : State) : ((withdraw m s).1.claim m).state = .none := by
  unfold withdraw; dsimp only
  split <;> rename_i h <;> simp [h]

@[simp] theorem withdraw_mots (m : MotIx) (s : State) : (withdraw m s).1.mots = s.mots := by
  unfold withdraw; dsimp only; split <;> simp

@[simp] theorem withdraw_mot (m : MotIx) (s : State) : (withdraw m s).1.mot = s.mot := by
  funext k; simp [State.mot]

@[simp] theorem withdraw_motionQueue (m : MotIx) (s : State) : (withdraw m s).1.motionQueue = s.motionQueue := by
  unfold withdraw; dsimp only; split <;> simp

@[simp] theorem withdraw_stopLatch (m : MotIx) (s : State) : (withdraw m s).1.stopLatch = s.stopLatch := by
  unfold withdraw; dsimp only; split <;> simp

@[simp] theorem withdraw_now (m : MotIx) (s : State) : (withdraw m s).1.now = s.now := by
  unfold withdraw; dsimp only; split <;> simp

theorem withdraw_onlyChannel (m : MotIx) : Op.OnlyChannel m (withdraw m) := fun s k hk => by
  unfold withdraw; dsimp only; split <;> simp [State.modClaim_get, hk]

@[simp] theorem openClaim_mots (m : MotIx) (s : State) : (openClaim m s).1.mots = s.mots := rfl

theorem openClaim_onlyChannel (m : MotIx) : Op.OnlyChannel m (openClaim m) := fun s k hk => by
  simp [openClaim, State.modClaim_get, hk]

@[simp] theorem openClaim_state (m : MotIx) (s : State) : ((openClaim m s).1.claim m).state = .opened := by
  simp [openClaim]

/-- A claim created is OPEN, or WAITING behind the frames of its tag still in flight. -/
theorem createClaim_state (m : MotIx) (l : Nat) (o : Bool) (s : State) :
    ((createClaim m l o s).1.claim m).state = if (s.claim m).inFlight = 0 then .opened else .waiting := by
  unfold createClaim; dsimp only
  split
  · exact openClaim_state ..
  · simp

@[simp] theorem createClaim_mots (m : MotIx) (l : Nat) (o : Bool) (s : State) :
    (createClaim m l o s).1.mots = s.mots := by
  unfold createClaim; dsimp only; split <;> simp

@[simp] theorem createClaim_mot (m : MotIx) (l : Nat) (o : Bool) (s : State) :
    (createClaim m l o s).1.mot = s.mot := by
  funext k; simp [State.mot]

@[simp] theorem createClaim_motionQueue (m : MotIx) (l : Nat) (o : Bool) (s : State) :
    (createClaim m l o s).1.motionQueue = s.motionQueue := by
  unfold createClaim; dsimp only; split <;> simp [openClaim]

@[simp] theorem createClaim_stopLatch (m : MotIx) (l : Nat) (o : Bool) (s : State) :
    (createClaim m l o s).1.stopLatch = s.stopLatch := by
  unfold createClaim; dsimp only; split <;> simp [openClaim]

theorem createClaim_onlyChannel (m : MotIx) (l : Nat) (o : Bool) : Op.OnlyChannel m (createClaim m l o) :=
  fun s k hk => by
  unfold createClaim; dsimp only; split
  · have h := openClaim_onlyChannel m (recompute (s.motCfg m).segment (s.modClaim m (fun r =>
      { r with state := .waiting, segment := (s.motCfg m).segment, amount := (s.motCfg m).claimAmount,
               hold := (s.motCfg m).claimHold, level := l, override := o, settle := .zero, sendMoment := none }))) k hk
    exact ⟨h.1.trans (by simp), h.2.trans (by simp [State.modClaim_get, hk])⟩
  · exact ⟨by simp, by simp [State.modClaim_get, hk]⟩

@[simp] theorem endHold_mot (m : MotIx) (s : State) : (endHold m s).mot = s.mot := by simp [endHold]
@[simp] theorem endHold_state (m : MotIx) (s : State) : ((endHold m s).claim m).state = .none := by simp [endHold]
@[simp] theorem endHold_motionQueue (m : MotIx) (s : State) : (endHold m s).motionQueue = s.motionQueue := by
  simp [endHold]
@[simp] theorem endHold_stopLatch (m : MotIx) (s : State) : (endHold m s).stopLatch = s.stopLatch := by simp [endHold]

theorem endHold_onlyChannel (m : MotIx) : Op.OnlyChannel m (Op.set (endHold m)) := fun s k hk => by
  simp [endHold, State.modClaim_get, hk]

/-! ## The ways into a state -/

/-- A channel that becomes IDLE. -/
theorem becomeIdle_mot (m : MotIx) (s : State) :
    ∃ p, (becomeIdle m s).1.mot m = { s.mot m with state := .idle, holder := none, deadTimer := .zero, posture := p } :=
  ⟨_, by simp [becomeIdle]; rfl⟩

@[simp] theorem becomeIdle_claim (m : MotIx) (s : State) : (becomeIdle m s).1.claim = s.claim := by simp [becomeIdle]

theorem becomeIdle_onlyChannel (m : MotIx) : Op.OnlyChannel m (becomeIdle m) := fun s k hk => by
  simp [becomeIdle, State.modMot_get, hk]

theorem endClaiming_onlyChannel (m : MotIx) : Op.OnlyChannel m (endClaiming m) := by
  apply Op.onlyChannel_chain; intro a ha
  simp only [List.mem_cons, List.not_mem_nil, or_false] at ha
  rcases ha with rfl | rfl
  · exact withdraw_onlyChannel m
  · exact becomeIdle_onlyChannel m

/-- A channel whose command ends in CLAIMING. -/
theorem endClaiming_mot (m : MotIx) (s : State) :
    (∃ p, (endClaiming m s).1.mot m =
      { s.mot m with state := .idle, holder := none, deadTimer := .zero, posture := p }) ∧
    ((endClaiming m s).1.claim m).state = .none := by
  obtain ⟨p, hp⟩ := becomeIdle_mot m (withdraw m s).1
  exact ⟨⟨p, by simpa [endClaiming] using hp⟩, by simp [endClaiming]⟩

/-- A channel that enters SETTLING. -/
theorem enterSettling_mot (m : MotIx) (s : State) :
    (∃ p, (enterSettling m s).1.mot m =
      { (s.mot m).cut with state := .settling, holder := none, deadTimer := .running s.now, stallTimer := .zero,
                           tripReason := none, posture := p }) ∧
    ((enterSettling m s).1.claim m).state = .none :=
  ⟨⟨_, by simp [enterSettling]; rfl⟩, by simp [enterSettling]⟩

theorem enterSettling_onlyChannel (m : MotIx) : Op.OnlyChannel m (enterSettling m) := by
  apply Op.onlyChannel_chain; intro a ha
  simp only [List.mem_cons, List.not_mem_nil, or_false] at ha
  rcases ha with rfl | rfl | rfl
  · exact Op.onlyChannel_modMot m _
  · exact withdraw_onlyChannel m
  · exact refreshPosture_onlyChannel m

/-- A channel that enters STOPPING. -/
theorem enterStopping_mot (m : MotIx) (s : State) :
    (∃ p, (enterStopping m s).1.mot m =
      { s.mot m with state := .stopping, holder := none, stallTimer := .zero,
                     speedFade := some (Fade.begin (s.mot m).speed 0 (s.motCfg m).rampDown), posture := p }) ∧
    ((enterStopping m s).1.claim m).state = .none :=
  ⟨⟨_, by simp [enterStopping]; rfl⟩, by simp [enterStopping]⟩

theorem enterStopping_onlyChannel (m : MotIx) : Op.OnlyChannel m (enterStopping m) := by
  apply Op.onlyChannel_chain; intro a ha
  simp only [List.mem_cons, List.not_mem_nil, or_false] at ha
  rcases ha with rfl | rfl | rfl
  · exact Op.onlyChannel_modMot m _
  · exact withdraw_onlyChannel m
  · exact refreshPosture_onlyChannel m

/-- A channel that enters STARTING. -/
theorem enterStarting_mot (m : MotIx) (s : State) :
    (∃ slow target p, (enterStarting m s).1.mot m =
      { s.mot m with
        state := .starting, outOn := (s.mot m).direction == some .outward, inOn := (s.mot m).direction == some .inward,
        slow := slow, stallTimer := if s.stallTested m then .running s.now else .zero,
        speedFade := some (Fade.begin (s.mot m).speed target (s.motCfg m).rampUp), posture := p }) ∧
    (enterStarting m s).1.claim = s.claim := by
  refine ⟨?_, by simp [enterStarting, beginSpeedFade]⟩
  simp only [enterStarting, beginSpeedFade, Op.chain_cons, Op.chain_nil, Op.set_run, refreshPosture_fst,
    State.modMot_same, State.modMot_motCfg]
  exact ⟨_, _, _, rfl⟩

theorem enterStarting_onlyChannel (m : MotIx) : Op.OnlyChannel m (enterStarting m) := by
  apply Op.onlyChannel_chain; intro a ha
  simp only [List.mem_cons, List.not_mem_nil, or_false] at ha
  rcases ha with rfl | rfl | rfl
  · exact Op.onlyChannel_modMot m _
  · exact Op.onlyChannel_modMot m (fun s c => { c with speedFade := some (Fade.begin c.speed (s.chosenSpeed m) (s.motCfg m).rampUp) })
  · exact refreshPosture_onlyChannel m

theorem enterRunning_mot (m : MotIx) (s : State) :
    (enterRunning m s).1.mot m =
      if (s.mot m).state = .starting then { s.mot m with state := .running } else s.mot m := by
  simp only [enterRunning, Op.set_run]; split <;> simp

@[simp] theorem enterRunning_claim (m : MotIx) (s : State) : (enterRunning m s).1.claim = s.claim := by
  simp only [enterRunning, Op.set_run]; split <;> simp

theorem enterRunning_onlyChannel (m : MotIx) : Op.OnlyChannel m (enterRunning m) := fun s k hk => by
  simp only [enterRunning, Op.set_run]; split <;> simp [State.modMot_get, hk]

/-- A channel that enters CLAIMING. -/
theorem enterClaiming_mot (m : MotIx) (c : MotionCmd) (d : Dir) (dl : Option Nat) (s : State) :
    (∃ p, (enterClaiming m c d dl s).1.mot m =
      { s.mot m with state := .claiming, direction := some d, holder := some ⟨c, dl⟩, deadTimer := .zero,
                     posture := p }) ∧
    (((enterClaiming m c d dl s).1.claim m).state = .opened ∨ ((enterClaiming m c d dl s).1.claim m).state = .waiting) := by
  constructor
  · exact ⟨_, by simp [enterClaiming, setHolder, answerMotion]; rfl⟩
  · simp only [enterClaiming, Op.chain_cons, Op.chain_nil, Op.set_run, answerMotion, Op.emit_run, refreshPosture_fst,
      State.modMot_claim, createClaim_state]
    split <;> simp

theorem answerMotion_onlyChannel (m : MotIx) (c : MotionCmd) (o : Outcome) : Op.OnlyChannel m (answerMotion c o) :=
  Op.onlyChannel_emit m _

theorem enterClaiming_onlyChannel (m : MotIx) (c : MotionCmd) (d : Dir) (dl : Option Nat) :
    Op.OnlyChannel m (enterClaiming m c d dl) := by
  apply Op.onlyChannel_chain; intro a ha
  simp only [List.mem_cons, List.not_mem_nil, or_false] at ha
  rcases ha with rfl | rfl | rfl | rfl
  · exact Op.onlyChannel_modMot m (fun _ r =>
      { r with state := .claiming, direction := some d, holder := some ⟨c, dl⟩, deadTimer := .zero })
  · exact fun s => createClaim_onlyChannel m _ _ s
  · exact answerMotion_onlyChannel m c _
  · exact refreshPosture_onlyChannel m

/-! ## Trips -/

/-- A follow-on dropped, if there is one. -/
theorem dropFollowOn_mot (m : MotIx) (s : State) : (dropFollowOn m s).1.mot m = { s.mot m with followOn := none } := by
  unfold dropFollowOn; split
  · simp [answerMotion]
  · rename_i h; cases hc : s.mot m; simp_all

@[simp] theorem dropFollowOn_claim (m : MotIx) (s : State) : (dropFollowOn m s).1.claim = s.claim := by
  unfold dropFollowOn; split
  · simp [answerMotion]
  · rfl

theorem dropFollowOn_onlyChannel (m : MotIx) : Op.OnlyChannel m (dropFollowOn m) := fun s k hk => by
  unfold dropFollowOn; split
  · simp [answerMotion, State.modMot_get, hk]
  · exact ⟨rfl, rfl⟩

theorem handOnTrip_mot (m : MotIx) (r : TripReason) (s : State) (k : MotIx) :
    (handOnTrip m r s).1.mot k = (refreshPosture m s).1.mot k := by
  unfold handOnTrip; dsimp only
  generalize s.siblingWork m r = l
  split <;> rfl

@[simp] theorem handOnTrip_claim (m : MotIx) (r : TripReason) (s : State) : (handOnTrip m r s).1.claim = s.claim := by
  have h : (handOnTrip m r s).1.claim = (refreshPosture m s).1.claim := by
    unfold handOnTrip; dsimp only
    generalize s.siblingWork m r = l
    split <;> rfl
  rw [h]; simp

theorem handOnTrip_onlyChannel (m : MotIx) (r : TripReason) : Op.OnlyChannel m (handOnTrip m r) := fun s k hk => by
  rw [handOnTrip_mot, handOnTrip_claim]; simp [State.modMot_get, hk]

/-- A channel that is not TRIPPED, and trips (R165). -/
theorem trip_mot (m : MotIx) (r : TripReason) (s : State) (h : (s.mot m).state ≠ .tripped) :
    (∃ p, (trip m r s).1.mot m =
      { (s.mot m).cut with state := .tripped, holder := none, followOn := none, stallTimer := .zero,
                           deadTimer := (s.mot m).deadTimer.halt s.now, tripReason := some r, posture := p }) ∧
    ((trip m r s).1.claim m).state = .none := by
  have hc : ((s.mot m).state == .tripped) = false := by simpa using h
  unfold trip
  simp only [Op.cond_run, hc, Bool.false_eq_true, if_false, Op.chain_cons, Op.chain_nil, Op.set_run, handOnTrip_mot,
    handOnTrip_claim, dropFollowOn_claim, withdraw_state, refreshPosture_fst, State.modMot_same, dropFollowOn_mot,
    withdraw_mot, and_true]
  exact ⟨_, rfl⟩

/-- A trip finds a TRIPPED channel as it is. -/
theorem trip_tripped (m : MotIx) (r : TripReason) (s : State) (h : (s.mot m).state = .tripped) : trip m r s = (s, []) := by
  unfold trip; simp [Op.cond_run, h]

theorem trip_onlyChannel (m : MotIx) (r : TripReason) : Op.OnlyChannel m (trip m r) := by
  apply Op.onlyChannel_cond (Op.onlyChannel_skip m)
  apply Op.onlyChannel_chain; intro a ha
  simp only [List.mem_cons, List.not_mem_nil, or_false] at ha
  rcases ha with rfl | rfl | rfl | rfl
  · exact Op.onlyChannel_modMot m _
  · exact withdraw_onlyChannel m
  · exact dropFollowOn_onlyChannel m
  · exact handOnTrip_onlyChannel m r

end Sys2Proof.Machine
end

