-- ==== Sys2Proof/Laws/MotionLaw.lean ====
section
/-! SUPPORT. The law of the motion channels and their claims is kept: by each operation of the Motion, Claim and Command
Units, and so by each piece of work of an event. -/

namespace Sys2Proof.Machine

/-! ## One channel -/

/-- The law for one channel. -/
def State.MotionLawAt (s : State) (m : MotIx) : Prop :=
  (s.mot m).Lawful ∧ claimFits (s.mot m).state (s.claim m).state = true

theorem motionLaw_congr {s t : State} (h : s.MotionLaw) (hm : t.mots = s.mots) (hc : t.claims = s.claims) :
    t.MotionLaw := by
  unfold State.MotionLaw State.mot State.claim at *
  rw [hm, hc]; exact h

/-- Where only one channel was touched, only that channel's law is in question. -/
theorem motionLaw_of_only {s : State} {m : MotIx} {op : Op} (ho : Op.OnlyChannel m op) (h : s.MotionLaw)
    (hm : (op s).1.MotionLawAt m) : (op s).1.MotionLaw := by
  intro k
  by_cases hk : k = m
  · subst hk; exact hm
  · rw [(ho s k hk).1, (ho s k hk).2]; exact h k

theorem motionLaw_modMot {s : State} {m : MotIx} {f : MotionCh → MotionCh} (h : s.MotionLaw)
    (hl : (f (s.mot m)).Lawful) (hs : (f (s.mot m)).state = (s.mot m).state) : (s.modMot m f).MotionLaw := by
  intro k
  rw [State.modMot_get]
  split
  · rename_i e; subst e
    exact ⟨hl, by rw [hs]; exact (h k).2⟩
  · exact h k

/-- What the states of a channel exclude. -/
theorem MotionCh.Lawful.followOn_none {c : MotionCh} (h : c.Lawful) (h1 : c.state ≠ .stopping) (h2 : c.state ≠ .settling) :
    c.followOn = none := by
  have := h.2.2.2.2.2.1
  cases hf : c.followOn with
  | none => rfl
  | some x => rw [hf] at this; rcases this rfl with e | e <;> contradiction

theorem MotionCh.Lawful.idle {c : MotionCh} (h : c.Lawful) (he : c.state.isEnergized = false) (ht : c.state ≠ .tripped)
    (hf : c.followOn = none) (p : Posture) :
    MotionCh.Lawful { c with state := .idle, holder := none, deadTimer := .zero, posture := p } := by
  obtain ⟨h1, h2, _, h4, _, _, h7, h8⟩ := h
  cases hs : c.state <;> simp_all [MotionCh.Lawful, MotionState.isEnergized, MotionState.isMoving, MotionState.isHeld, MotionState.isDriven]

theorem MotionCh.Lawful.settling {c : MotionCh} (h : c.Lawful) (n : Nat) (p : Posture) :
    MotionCh.Lawful { c.cut with state := .settling, holder := none, deadTimer := .running n, stallTimer := .zero,
                                 tripReason := none, posture := p } := by
  obtain ⟨_, _, _, _, _, h6, _, _⟩ := h
  simp_all [MotionCh.Lawful, MotionState.isEnergized, MotionState.isMoving, MotionState.isHeld, MotionState.isDriven, MotionCh.cut,
    Timer.zero, Timer.isRunning]

theorem MotionCh.Lawful.stopping {c : MotionCh} (h : c.Lawful) (hd : c.state.isDriven = true) (fo : Option Holder)
    (f : Fade) (p : Posture) :
    MotionCh.Lawful { c with state := .stopping, holder := none, stallTimer := .zero, speedFade := some f, posture := p,
                             followOn := fo } := by
  obtain ⟨h1, h2, h3, _, _, _, _, h8⟩ := h
  cases hs : c.state <;>
    simp_all [MotionCh.Lawful, MotionState.isEnergized, MotionState.isMoving, MotionState.isHeld, MotionState.isDriven, Timer.zero,
      Timer.isRunning]

theorem MotionCh.Lawful.tripped {c : MotionCh} (r : TripReason) (d : Timer) (p : Posture) :
    MotionCh.Lawful { c.cut with state := .tripped, holder := none, followOn := none, stallTimer := .zero, deadTimer := d,
                                 tripReason := some r, posture := p } := by
  simp [MotionCh.Lawful, MotionState.isEnergized, MotionState.isMoving, MotionState.isHeld, MotionState.isDriven, MotionCh.cut, Timer.zero,
    Timer.isRunning]

theorem MotionCh.Lawful.claiming {c : MotionCh} (h : c.Lawful) (he : c.state.isEnergized = false) (ht : c.state ≠ .tripped)
    (hf : c.followOn = none) (d : Dir) (x : Holder) (p : Posture) :
    MotionCh.Lawful { c with state := .claiming, direction := some d, holder := some x, deadTimer := .zero,
                             posture := p } := by
  obtain ⟨h1, h2, _, h4, _, _, h7, h8⟩ := h
  cases hs : c.state <;> simp_all [MotionCh.Lawful, MotionState.isEnergized, MotionState.isMoving, MotionState.isHeld, MotionState.isDriven]

theorem MotionCh.Lawful.starting {c : MotionCh} (h : c.Lawful) (hs : c.state = .claiming) (slow : Bool) (stall : Timer)
    (f : Fade) (p : Posture) :
    MotionCh.Lawful { c with
      state := .starting, outOn := c.direction == some .outward, inOn := c.direction == some .inward, slow := slow,
      stallTimer := stall, speedFade := some f, posture := p } := by
  obtain ⟨_, _, h3, _, h5, h6, _, h8⟩ := h
  simp_all [MotionCh.Lawful, MotionState.isEnergized, MotionState.isMoving, MotionState.isHeld, MotionState.isDriven]

theorem MotionCh.Lawful.running {c : MotionCh} (h : c.Lawful) (hs : c.state = .starting) :
    MotionCh.Lawful { c with state := .running } := by
  obtain ⟨h1, h2, h3, _, h5, h6, h7, h8⟩ := h
  simp_all [MotionCh.Lawful, MotionState.isEnergized, MotionState.isMoving, MotionState.isHeld, MotionState.isDriven]

/-! ## The ways into a state -/

theorem refreshPosture_motionLaw (m : MotIx) : Op.Keeps State.MotionLaw (refreshPosture m) := fun s h => by
  rw [refreshPosture_fst]; exact motionLaw_modMot h (h m).1 rfl

theorem becomeIdle_motionLaw (m : MotIx) (s : State) (h : s.MotionLaw)
    (hs : (s.mot m).state = .idle ∨ (s.mot m).state = .settling) (hf : (s.mot m).followOn = none) :
    (becomeIdle m s).1.MotionLaw := by
  refine motionLaw_of_only (becomeIdle_onlyChannel m) h ?_
  obtain ⟨p, hp⟩ := becomeIdle_mot m s
  have h2 := (h m).2
  refine ⟨?_, ?_⟩
  · rw [hp]; apply (h m).1.idle _ _ hf
    · rcases hs with e | e <;> simp [e, MotionState.isEnergized]
    · rcases hs with e | e <;> simp [e]
  · rw [hp, becomeIdle_claim]
    rcases hs with e | e <;> rw [e] at h2 <;> revert h2 <;> cases (s.claim m).state <;> simp [claimFits]

theorem endClaiming_motionLaw (m : MotIx) (s : State) (h : s.MotionLaw) (hs : (s.mot m).state = .claiming) :
    (endClaiming m s).1.MotionLaw := by
  refine motionLaw_of_only (endClaiming_onlyChannel m) h ?_
  obtain ⟨⟨p, hp⟩, hc⟩ := endClaiming_mot m s
  refine ⟨?_, by rw [hp, hc]; rfl⟩
  rw [hp]
  exact (h m).1.idle (by simp [hs, MotionState.isEnergized]) (by simp [hs])
    ((h m).1.followOn_none (by simp [hs]) (by simp [hs])) p

theorem enterSettling_motionLaw (m : MotIx) : Op.Keeps State.MotionLaw (enterSettling m) := fun s h => by
  refine motionLaw_of_only (enterSettling_onlyChannel m) h ?_
  obtain ⟨⟨p, hp⟩, hc⟩ := enterSettling_mot m s
  exact ⟨by rw [hp]; exact (h m).1.settling s.now p, by rw [hp, hc]; rfl⟩

theorem enterStopping_motionLaw (m : MotIx) (s : State) (h : s.MotionLaw) (hs : (s.mot m).state.isDriven = true) :
    (enterStopping m s).1.MotionLaw := by
  refine motionLaw_of_only (enterStopping_onlyChannel m) h ?_
  obtain ⟨⟨p, hp⟩, hc⟩ := enterStopping_mot m s
  exact ⟨by rw [hp]; exact (h m).1.stopping hs (s.mot m).followOn _ p, by rw [hp, hc]; rfl⟩

theorem trip_motionLaw (m : MotIx) (r : TripReason) : Op.Keeps State.MotionLaw (trip m r) := fun s h => by
  by_cases ht : (s.mot m).state = .tripped
  · rw [trip_tripped m r s ht]; exact h
  · refine motionLaw_of_only (trip_onlyChannel m r) h ?_
    obtain ⟨⟨p, hp⟩, hc⟩ := trip_mot m r s ht
    exact ⟨by rw [hp]; exact MotionCh.Lawful.tripped r _ p, by rw [hp, hc]; rfl⟩

theorem tripIfMoving_motionLaw (m : MotIx) (r : TripReason) : Op.Keeps State.MotionLaw (tripIfMoving m r) :=
  Op.keeps_cond (trip_motionLaw m r) (Op.keeps_skip _)

/-- A command enters CLAIMING from a state in which nothing moves. -/
theorem enterClaiming_motionLaw (m : MotIx) (c : MotionCmd) (d : Dir) (dl : Option Nat) (s : State)
    (hl : (s.mot m).Lawful) (ho : ∀ k, k ≠ m → s.MotionLawAt k) (he : (s.mot m).state.isEnergized = false)
    (ht : (s.mot m).state ≠ .tripped) (hf : (s.mot m).followOn = none) :
    (enterClaiming m c d dl s).1.MotionLaw := by
  intro k
  by_cases hk : k = m
  · subst hk
    obtain ⟨⟨p, hp⟩, hc⟩ := enterClaiming_mot k c d dl s
    refine ⟨by rw [hp]; exact hl.claiming he ht hf d _ p, ?_⟩
    rw [hp]; rcases hc with e | e <;> rw [e] <;> rfl
  · rw [(enterClaiming_onlyChannel m c d dl s k hk).1, (enterClaiming_onlyChannel m c d dl s k hk).2]
    exact ho k hk

theorem takeCommand_motionLaw (m : MotIx) (c : MotionCmd) (a b : Option Nat) (refused completed : Op) (s : State)
    (h : s.MotionLaw) (hs : (s.mot m).state = .idle ∨ (s.mot m).state = .settling) (hf : (s.mot m).followOn = none)
    (hr : (refused s).1.MotionLaw) (hc : (completed s).1.MotionLaw) :
    (takeCommand m c a b refused completed s).1.MotionLaw := by
  unfold takeCommand; split
  · simpa [answerMotion] using hr
  · simpa [answerMotion] using hc
  · refine enterClaiming_motionLaw m c _ b s (h m).1 (fun k _ => h k) ?_ ?_ hf
    · rcases hs with e | e <;> simp [e, MotionState.isEnergized]
    · rcases hs with e | e <;> simp [e]

theorem takePending_motionLaw (m : MotIx) : Op.Keeps State.MotionLaw (takePending m) := fun s h => by
  unfold takePending; split
  · exact h
  · rename_i hs
    have hs' : (s.mot m).state = .idle := by simpa using hs
    split
    · exact h
    · generalize hu : ({ s with motionQueue := _ } : State) = u
      have hu' : u.MotionLaw := motionLaw_congr h (by rw [← hu]) (by rw [← hu])
      have hi : (u.mot m).state = .idle := by rw [← hu]; exact hs'
      refine takeCommand_motionLaw m _ _ _ _ _ u hu' (.inl hi) ?_ hu' hu'
      exact (hu' m).1.followOn_none (by simp [hi]) (by simp [hi])

/-! ## Claims -/

theorem yieldClaim_motionLaw (m : MotIx) (s : State) (h : s.MotionLaw)
    (hc : (s.claim m).state = .waiting ∨ (s.claim m).state = .opened) : (yieldClaim m s).1.MotionLaw := by
  have hs : (s.mot m).state = .claiming := by
    have h2 := (h m).2
    rcases hc with e | e <;> rw [e] at h2 <;> revert h2 <;> cases (s.mot m).state <;> simp [claimFits]
  have e : (yieldClaim m s).1 = (endClaiming m s).1 := by
    unfold yieldClaim endClaiming
    simp [Op.cond_run, hs]
  rw [e]; exact endClaiming_motionLaw m s h hs

theorem modClaim_motionLaw {s : State} {m : MotIx} {f : OwnClaim → OwnClaim} (h : s.MotionLaw)
    (hf : claimFits (s.mot m).state (f (s.claim m)).state = true) : (s.modClaim m f).MotionLaw := by
  intro k
  rw [State.modClaim_get]
  by_cases hk : k = m
  · subst hk; simpa using ⟨(h k).1, hf⟩
  · simpa [hk] using h k

theorem takeReport_motionLaw (b : Bool) (f : TxFrame) : Op.Keeps State.MotionLaw (takeReport b f) := by
  obtain ⟨_, body, _, _⟩ := f
  cases body with
  | claim m g a hold =>
    apply Op.keeps_chain
    intro op hop s h
    simp only [List.mem_cons, List.not_mem_nil, or_false] at hop
    rcases hop with rfl | rfl | rfl
    · exact modClaim_motionLaw h (h m).2
    · split
      · unfold creationReport; dsimp only
        split
        · exact h
        · cases hc : (s.claim m).state
          · exact h
          · exact h
          · dsimp only
            split
            · exact yieldClaim_motionLaw m s h (.inr hc)
            · exact modClaim_motionLaw h (h m).2
          · exact modClaim_motionLaw h (h m).2
      · exact h
    · unfold releaseWaiting Op.cond; split
      · rename_i hw
        simp only [Bool.and_eq_true, beq_iff_eq] at hw
        refine modClaim_motionLaw (s := s) (m := m) h ?_
        have h2 := (h m).2
        rw [hw.1] at h2
        revert h2; cases (s.mot m).state <;> simp [claimFits]
      · exact h
  | _ => exact Op.keeps_skip _

theorem contendClaim_motionLaw (m : MotIx) (g : SegIx) (l : Nat) (n : NodeId) :
    Op.Keeps State.MotionLaw (contendClaim m g l n) := fun s h => by
  unfold contendClaim Op.cond; split
  · rename_i hc
    simp only [Bool.and_eq_true, Bool.or_eq_true, beq_iff_eq] at hc
    exact yieldClaim_motionLaw m s h hc.1.1.1.1
  · exact h

/-! ## Holds, halts and stops -/

theorem loseHold_motionLaw (m : MotIx) : Op.Keeps State.MotionLaw (loseHold m) := fun s h => by
  unfold loseHold
  cases hs : (s.mot m).state <;> dsimp only <;> first
    | exact h
    | exact endClaiming_motionLaw m s h hs
    | exact enterStopping_motionLaw m s h (by simp [hs, MotionState.isDriven])

theorem haltMotion_motionLaw (m : MotIx) : Op.Keeps State.MotionLaw (haltMotion m) := fun s h => by
  unfold haltMotion
  cases hs : (s.mot m).state <;> dsimp only
  case claiming => exact endClaiming_motionLaw m s h hs
  case starting => exact enterStopping_motionLaw m s h (by simp [hs, MotionState.isDriven])
  case running => exact enterStopping_motionLaw m s h (by simp [hs, MotionState.isDriven])
  case tripped => exact enterSettling_motionLaw m s h
  all_goals exact h

theorem beginSpeedFade_motionLaw (m : MotIx) (t n : Nat) (s : State) (h : s.MotionLaw)
    (he : (s.mot m).state.isEnergized = true) : (beginSpeedFade m t n s).MotionLaw := by
  refine motionLaw_modMot h ?_ rfl
  obtain ⟨h1, h2, h3, _, h5, h6, h7, h8⟩ := (h m).1
  exact ⟨h1, h2, h3, by simp [he], h5, h6, h7, h8⟩

theorem isEnergized_of_isDriven {c : MotionState} (h : c.isDriven = true) : c.isEnergized = true := by
  cases c <;> simp_all [MotionState.isDriven, MotionState.isEnergized]

/-- Entering the slow band leaves the channel's state, and keeps the law of an energized channel. -/
theorem enterSlowBand_motionLaw (m : MotIx) (s : State) (h : s.MotionLaw) (he : (s.mot m).state.isEnergized = true) :
    (enterSlowBand m s).MotionLaw ∧ ((enterSlowBand m s).mot m).state = (s.mot m).state :=
  ⟨beginSpeedFade_motionLaw m _ _ _ (motionLaw_modMot h (h m).1 rfl) (by simpa using he),
    by simp [enterSlowBand, beginSpeedFade]⟩

theorem positionTests_motionLaw (m : MotIx) : Op.Keeps State.MotionLaw (positionTests m) := fun s h => by
  unfold positionTests
  rw [Op.cond_run]
  split
  · rename_i hd
    have hb : (slowBandTest m s).1.MotionLaw ∧ ((slowBandTest m s).1.mot m).state = (s.mot m).state := by
      simp only [slowBandTest, Op.set_run]
      split
      · exact enterSlowBand_motionLaw m s h (isEnergized_of_isDriven hd)
      · exact ⟨h, rfl⟩
    simp only [Op.chain_cons, Op.chain_nil]
    unfold targetTest Op.cond; split
    · exact enterStopping_motionLaw m _ hb.1 (by rw [hb.2]; exact hd)
    · exact hb.1
  · exact h

theorem dropFollowOn_motionLaw (m : MotIx) : Op.Keeps State.MotionLaw (dropFollowOn m) := fun s h => by
  unfold dropFollowOn; split
  · refine motionLaw_modMot h ?_ rfl
    obtain ⟨h1, h2, h3, h4, h5, _, h7, h8⟩ := (h m).1
    exact ⟨h1, h2, h3, h4, h5, by simp, h7, h8⟩
  · exact h

theorem emptyQueue_mots (o : Outcome) (s : State) :
    (emptyQueue o s).1.mots = s.mots ∧ (emptyQueue o s).1.claims = s.claims := by
  unfold emptyQueue
  exact Op.keeps_each (P := fun t => t.mots = s.mots ∧ t.claims = s.claims) (fun e _ t ht => ht)
    { s with motionQueue := [] } ⟨rfl, rfl⟩

theorem emptyQueue_motionLaw (o : Outcome) : Op.Keeps State.MotionLaw (emptyQueue o) := fun s h =>
  motionLaw_congr h (emptyQueue_mots o s).1 (emptyQueue_mots o s).2

theorem setLatch_motionLaw : Op.Keeps State.MotionLaw setLatch :=
  Op.keeps_cond (Op.keeps_skip _) <| Op.keeps_chain fun a ha => by
    simp only [List.mem_cons, List.not_mem_nil, or_false] at ha
    rcases ha with rfl | rfl | rfl | rfl
    · exact fun s h => motionLaw_congr h rfl rfl
    · exact Op.keeps_each fun m _ => tripIfMoving_motionLaw m _
    · exact Op.keeps_each fun m _ => Op.keeps_cond (dropFollowOn_motionLaw m) (Op.keeps_skip _)
    · exact emptyQueue_motionLaw _

/-! ## Inputs -/

theorem reference_motionLaw (m : MotIx) (d : Dir) (s : State) (h : s.MotionLaw) : (reference m d s).MotionLaw := by
  unfold reference; split
  · exact motionLaw_modMot h (h m).1 rfl
  · exact h

theorem contactStops_motionLaw (m : MotIx) (d : Dir) : Op.Keeps State.MotionLaw (contactStops m d) := fun s h => by
  unfold contactStops; repeat' split
  · exact h
  · exact trip_motionLaw m _ s h
  · exact enterSettling_motionLaw m s h
  · exact trip_motionLaw m _ s h
  · exact positionTests_motionLaw m s h

theorem endContact_motionLaw (m : MotIx) (d : Dir) (b : Bool) : Op.Keeps State.MotionLaw (endContact m d b) := by
  unfold endContact; split
  · apply Op.keeps_chain
    intro op hop
    simp only [List.mem_cons, List.not_mem_nil, or_false] at hop
    rcases hop with rfl | rfl | rfl
    · exact fun s h => reference_motionLaw m d s h
    · exact contactStops_motionLaw m d
    · exact refreshPosture_motionLaw m
  · exact refreshPosture_motionLaw m

theorem takePulse_motionLaw (m : MotIx) : Op.Keeps State.MotionLaw (takePulse m) := by
  apply Op.keeps_chain
  intro op hop s h
  simp only [List.mem_cons, List.not_mem_nil, or_false] at hop
  rcases hop with rfl | rfl | rfl
  · refine motionLaw_modMot h ?_ rfl
    obtain ⟨h1, h2, h3, h4, h5, h6, h7, h8⟩ := (h m).1
    refine ⟨h1, h2, h3, h4, h5, h6, ?_, h8⟩
    dsimp only
    split
    · rename_i hd; simp only [Bool.and_eq_true] at hd; exact fun _ => hd.1
    · exact h7
  · exact Op.keeps_cond (positionTests_motionLaw m) (Op.keeps_skip _) s h
  · exact refreshPosture_motionLaw m s h

theorem bindings_motionLaw (i : InIx) (b : BindIx) :
    Op.Keeps State.MotionLaw (fireBinding i b) ∧ Op.Keeps State.MotionLaw (releaseBinding i b) := by
  constructor <;> intro s h
  · unfold fireBinding Op.cond; split
    · exact motionLaw_congr h rfl rfl
    · exact h
  · unfold releaseBinding Op.cond; split
    · exact motionLaw_congr h rfl rfl
    · exact h

theorem roleChange_motionLaw (i : InIx) (b : Bool) : Op.Keeps State.MotionLaw (roleChange i b) := fun s h => by
  unfold roleChange; split
  · exact h
  · exact h
  · unfold keyChange; split
    · exact Op.keeps_cond (Op.keeps_each fun x _ => (bindings_motionLaw i x).1) (Op.keeps_skip _) s h
    · exact Op.keeps_each (fun x _ => (bindings_motionLaw i x).2) s h
  · exact endContact_motionLaw _ _ _ s h
  · exact endContact_motionLaw _ _ _ s h
  · split
    · exact takePulse_motionLaw _ s h
    · exact h
  · exact Op.keeps_cond (loseHold_motionLaw _) (Op.keeps_skip _) s h
  · split
    · exact tripIfMoving_motionLaw _ _ s h
    · exact h
  · unfold estopChange; split
    · exact motionLaw_congr (setLatch_motionLaw s h) rfl rfl
    · exact motionLaw_congr h rfl rfl

/-! ## Commands -/

theorem offstage_motionLaw {s t : State} (h : t.offstage = s.offstage) (hs : s.MotionLaw) : t.MotionLaw :=
  motionLaw_congr hs (congrArg State.mots h :) (congrArg State.claims h :)

theorem unlit_motionLaw {s t : State} (h : t.unlit = s.unlit) (hs : s.MotionLaw) : t.MotionLaw :=
  offstage_motionLaw (offstage_of_unlit h) hs

theorem dimmerVerb_motionLaw (v : Verb) {act : DimIx → State → State} (ha : ∀ d s, (act d s).offstage = s.offstage)
    (c : Cmd) : Op.Keeps State.MotionLaw (dimmerVerb v act c) := fun s h => by
  unfold dimmerVerb; repeat' split
  · exact offstage_motionLaw (ha _ s) h
  · exact h
  · exact h

theorem removePending_motionLaw (n : NodeId) (t : Nat) (o : Outcome) :
    Op.Keeps State.MotionLaw (removePending n t o) := fun s h => by
  unfold removePending; split
  · exact motionLaw_congr h rfl rfl
  · exact h

theorem queueCommand_motionLaw (m : MotIx) (c : MotionCmd) : Op.Keeps State.MotionLaw (queueCommand m c) := fun s h => by
  unfold queueCommand; repeat' split
  all_goals first
    | exact h
    | exact motionLaw_congr h rfl rfl

theorem retarget_motionLaw (m : MotIx) (s : State) (h : s.MotionLaw) (hd : (s.mot m).state.isDriven = true) :
    (retarget m s).MotionLaw ∧ ((retarget m s).mot m).state = (s.mot m).state := by
  unfold retarget; dsimp only; split
  · exact enterSlowBand_motionLaw m s h (isEnergized_of_isDriven hd)
  split
  · exact ⟨motionLaw_modMot h (h m).1 rfl, by simp⟩
  · exact ⟨beginSpeedFade_motionLaw m _ _ _ (motionLaw_modMot h (h m).1 rfl)
      (by simpa using isEnergized_of_isDriven hd), by simp [beginSpeedFade]⟩

theorem replaceHolder_motionLaw (m : MotIx) (c : MotionCmd) (s : State) (h : s.MotionLaw)
    (hs : (s.mot m).state.isHeld = true) : (replaceHolder m c s).1.MotionLaw := by
  have h1 : (s.modMot m (fun r => { r with holder := some ⟨c, s.arrivalDeadline m c⟩ })).MotionLaw := by
    refine motionLaw_modMot h ?_ rfl
    obtain ⟨a1, a2, a3, a4, _, a6, a7, a8⟩ := (h m).1
    exact ⟨a1, a2, a3, a4, by simp [hs], a6, a7, a8⟩
  generalize hu : s.modMot m (fun r => { r with holder := some ⟨c, s.arrivalDeadline m c⟩ }) = u at h1
  have h2 : (if (u.mot m).state = .claiming ∧ u.cfg.isOverride c.origin c.level then
      u.modClaim m (fun r => { r with override := true }) else u).MotionLaw := by
    split
    · exact modClaim_motionLaw h1 (h1 m).2
    · exact h1
  unfold replaceHolder
  simp only [Op.chain_cons, Op.chain_nil, Op.set_run, hu, answerMotion, Op.emit_run]
  generalize (if (u.mot m).state = .claiming ∧ u.cfg.isOverride c.origin c.level then
      u.modClaim m (fun r => { r with override := true }) else u) = v at h2
  rw [Op.cond_run]
  split
  · rename_i hd
    have hr := retarget_motionLaw m v h2 hd
    simp only [Op.chain_cons, Op.chain_nil, Op.set_run]
    unfold targetTest Op.cond; split
    · exact enterStopping_motionLaw m _ hr.1 (by rw [hr.2]; exact hd)
    · exact hr.1
  · exact h2

theorem samePreemption_motionLaw (m : MotIx) (c : MotionCmd) (s : State) (h : s.MotionLaw)
    (hs : (s.mot m).state.isHeld = true) : (samePreemption m c s).1.MotionLaw := by
  unfold samePreemption; repeat' split
  · exact h
  · exact h
  · exact replaceHolder_motionLaw m c s h hs

/-- A channel in CLAIMING whose claim has just been withdrawn. -/
theorem withdrawn_idle_motionLaw (m : MotIx) (s : State) (h : s.MotionLaw) (hs : (s.mot m).state = .claiming) :
    (becomeIdle m (withdraw m s).1).1.MotionLaw := by
  have := endClaiming_motionLaw m s h hs
  simpa [endClaiming] using this

theorem oppositeClaiming_motionLaw (m : MotIx) (c : MotionCmd) (s : State) (h : s.MotionLaw)
    (hs : (s.mot m).state = .claiming) : (oppositeClaiming m c s).1.MotionLaw := by
  unfold oppositeClaiming; split
  · exact h
  · simpa [answerMotion] using withdrawn_idle_motionLaw m s h hs
  · simp only [Op.chain_cons, Op.chain_nil]
    refine enterClaiming_motionLaw m c _ _ _ (by simpa using (h m).1) (fun k hk => ?_) ?_ ?_ ?_
    · unfold State.MotionLawAt
      rw [(withdraw_onlyChannel m s k hk).1, (withdraw_onlyChannel m s k hk).2]; exact h k
    · simp [hs, MotionState.isEnergized]
    · simp [hs]
    · simpa using (h m).1.followOn_none (by simp [hs]) (by simp [hs])

theorem oppositeDriven_motionLaw (m : MotIx) (c : MotionCmd) (s : State) (h : s.MotionLaw)
    (hs : (s.mot m).state.isDriven = true) : (oppositeDriven m c s).1.MotionLaw := by
  unfold oppositeDriven
  simp only [Op.chain_cons, Op.chain_nil, Op.set_run, answerMotion, Op.emit_run]
  generalize hu : s.modMot m (fun r => { r with followOn := some ⟨c, s.arrivalDeadline m c⟩ }) = u
  have hm : u.mot m = { s.mot m with followOn := some ⟨c, s.arrivalDeadline m c⟩ } := by rw [← hu]; simp
  intro k
  by_cases hk : k = m
  · subst hk
    obtain ⟨⟨p, hp⟩, hc⟩ := enterStopping_mot k u
    refine ⟨?_, by rw [hp, hc]; rfl⟩
    rw [hp, hm]
    exact (h k).1.stopping hs (some ⟨c, s.arrivalDeadline k c⟩) _ p
  · rw [(enterStopping_onlyChannel m u k hk).1, (enterStopping_onlyChannel m u k hk).2, ← hu]
    simpa [State.modMot_get, hk] using h k

theorem preempt_motionLaw (m : MotIx) (c : MotionCmd) (s : State) (h : s.MotionLaw)
    (hs : (s.mot m).state.isHeld = true) : (preempt m c s).1.MotionLaw := by
  unfold preempt; repeat' split
  · exact h
  · exact samePreemption_motionLaw m c s h hs
  · exact samePreemption_motionLaw m c s h hs
  · rename_i e; exact oppositeClaiming_motionLaw m c s h e
  · rename_i e
    refine oppositeDriven_motionLaw m c s h ?_
    revert hs e; cases (s.mot m).state <;> simp [MotionState.isHeld, MotionState.isDriven]

theorem motionByState_motionLaw (m : MotIx) (c : MotionCmd) : Op.Keeps State.MotionLaw (motionByState m c) :=
  fun s h => by
  unfold motionByState
  cases hs : (s.mot m).state <;> dsimp only
  case idle =>
    exact takeCommand_motionLaw m c _ _ _ _ s h (.inl hs) ((h m).1.followOn_none (by simp [hs]) (by simp [hs])) h h
  all_goals first
    | exact queueCommand_motionLaw m c s h
    | exact h
    | (split
       · exact preempt_motionLaw m c s h (by simp [hs, MotionState.isHeld])
       · exact queueCommand_motionLaw m c s h)

theorem motionCommand_motionLaw (m : MotIx) (c : MotionCmd) : Op.Keeps State.MotionLaw (motionCommand m c) :=
  fun s h => by
  unfold motionCommand; repeat' split
  · exact h
  · exact h
  · exact motionByState_motionLaw m c _ (removePending_motionLaw _ _ _ s h)

theorem motionVerb_motionLaw (v : Verb) {act : MotIx → Op} (ha : ∀ m, Op.Keeps State.MotionLaw (act m)) (c : Cmd) :
    Op.Keeps State.MotionLaw (motionVerb v act c) := fun s h => by
  unfold motionVerb; repeat' split
  · exact ha _ s h
  · exact h
  · exact h

theorem haltChannel_motionLaw (c : Cmd) (m : MotIx) : Op.Keeps State.MotionLaw (haltChannel c m) := fun s h => by
  have hh := haltMotion_motionLaw m s h
  unfold haltChannel; split
  · exact motionLaw_congr h rfl rfl
  · cases hs : (s.mot m).state <;> dsimp only
    all_goals first
      | exact hh
      | (split
         · exact hh
         · exact h)

theorem refreshHeld_motionLaw (n : NodeId) (t : Nat) (s : State) (h : s.MotionLaw) : (refreshHeld n t s).MotionLaw := by
  have hk : (foldState (refreshChannel n t) allMots s).MotionLaw := by
    refine foldState_keeps (P := State.MotionLaw) (fun m u hu => ?_) allMots s h
    refine motionLaw_modMot hu ?_ rfl
    obtain ⟨h1, h2, h3, h4, h5, h6, h7, h8⟩ := (hu m).1
    exact ⟨h1, h2, h3, h4, by simpa using h5, by simpa using h6, h7, h8⟩
  exact motionLaw_congr hk rfl rfl

theorem setSoftFlag_motionLaw (i : Fin 4) (v : Bool) : Op.Keeps State.MotionLaw (setSoftFlag i v) := fun s h => by
  unfold setSoftFlag; split
  · exact h
  · exact motionLaw_congr h rfl rfl

theorem cancelMatching_motionLaw (n : NodeId) (t : Nat) (m : MotIx) : Op.Keeps State.MotionLaw (cancelMatching n t m) :=
  fun s h => by
  unfold cancelMatching; split
  · exact dropFollowOn_motionLaw m s h
  · exact h

theorem restartMotions_motionLaw (s : State) (h : ∀ m : MotIx, (s.mot m).Lawful)
    (hc : ∀ m : MotIx, (s.claim m).state = .none) (hu : ∀ m : MotIx, (s.motCfg m).configured = false →
      (s.mot m).state ≠ .claiming ∧ (s.mot m).state ≠ .starting) :
    (Op.each restartMotion allMots s).1.MotionLaw := by
  suffices H : ∀ (l : List MotIx) (t : State), (∀ m, (t.mot m).Lawful) → (∀ m, (t.claim m).state = .none) →
      (∀ m, t.motCfg m = s.motCfg m) →
      (∀ m, m ∉ l → (t.mot m).state ≠ .claiming ∧ (t.mot m).state ≠ .starting) →
      (∀ m, (t.motCfg m).configured = false → (t.mot m).state ≠ .claiming ∧ (t.mot m).state ≠ .starting) →
      (Op.each restartMotion l t).1.MotionLaw by
    refine H allMots s h hc (fun _ => rfl) (fun m hm => absurd ?_ hm) hu
    exact List.mem_finRange m
  intro l
  induction l with
  | nil =>
    intro t h1 h2 _ h4 _ m
    refine ⟨h1 m, ?_⟩
    have := h4 m (by simp)
    show claimFits (t.mot m).state (t.claim m).state = true
    rw [h2 m]
    cases hs : (t.mot m).state <;> simp_all [claimFits]
  | cons a l ih =>
    intro t h1 h2 h3 h4 h5
    show (Op.each restartMotion l (restartMotion a t).1).1.MotionLaw
    unfold restartMotion
    rw [Op.cond_run]
    split
    · obtain ⟨⟨p, hp⟩, hcl⟩ := enterSettling_mot a t
      have hcfg : ∀ m, (enterSettling a t).1.motCfg m = t.motCfg m := fun m => by
        have := enterSettling_fixed a t
        exact (congrArg (fun u : Fixed => u.cfg.mots[m]) this :)
      have hm : ∀ m, (enterSettling a t).1.mot m = if m = a then
          { (t.mot a).cut with state := .settling, holder := none, deadTimer := .running t.now, stallTimer := .zero,
                               tripReason := none, posture := p } else t.mot m := by
        intro m; by_cases hk : m = a
        · subst hk; simpa using hp
        · rw [if_neg hk]; exact (enterSettling_onlyChannel a t m hk).1
      apply ih
      · intro m; rw [hm]; split
        · exact (h1 a).settling t.now p
        · exact h1 m
      · intro m; by_cases hk : m = a
        · subst hk; exact hcl
        · rw [(enterSettling_onlyChannel a t m hk).2]; exact h2 m
      · intro m; rw [hcfg, h3]
      · intro m hml; rw [hm]; split
        · simp
        · rename_i hk; exact h4 m (by simp [hk, hml])
      · intro m hcf; rw [hcfg] at hcf; rw [hm]; split
        · simp
        · exact h5 m hcf
    · rename_i hcond
      simp only [Op.skip_run]
      apply ih t h1 h2 h3 _ h5
      intro m hml
      by_cases hk : m = a
      · subst hk
        by_cases hcf : (t.motCfg m).configured = true
        · simp [hcf] at hcond; simp [hcond]
        · exact h5 m (by simpa using hcf)
      · exact h4 m (by simp [hk, hml])

end Sys2Proof.Machine
end

