-- ==== Sys2Proof/Laws/Passage.lean ====
section
/-! SUPPORT. The passing of time: what an accepted change and the passing of time never touch, the moment it leads to, that
it is the clock alone where no filter accepts a change on the way, and that its bound is never reached. -/

namespace Sys2Proof.Machine

/-- The part of the state that an accepted change of an input never touches. -/
def State.steady (s : State) : Fixed :=
  { s.fixed with pub := .blank, inputs := State.reset.inputs, pins := State.reset.pins, now := 0 }

/-! ## An accepted change -/

/-- An accepted change leaves the clock, sets its input's record and pin, and touches nothing else but what the blocks
that it is handed to and the publisher do. -/
theorem handOn_frame (i : InIx) (s : State) :
    (handOn i s).fixed = { s.fixed with
      pub := (handOn i s).pub
      inputs := s.inputs.set i ⟨!(s.input i).filtered, 0, false⟩
      pins := s.pins.set i (!(s.input i).filtered) } := by
  have h : ∀ b, (acceptChange i b s).1.fixed =
      { s.fixed with inputs := s.inputs.set i ⟨b, 0, false⟩, pins := s.pins.set i b } := by
    intro b
    simp only [acceptChange, Op.chain_cons, Op.chain_nil, Op.set_run, Op.cond_run]
    split <;> rfl
  unfold handOn event
  obtain ⟨p, l, hp, -, -, h1, h2⟩ := publish_frame
    (s.raises (acceptChange i (!(s.input i).filtered) s).1 || settleRaises (acceptChange i (!(s.input i).filtered) s))
    (settle (acceptChange i (!(s.input i).filtered) s))
  rw [hp]
  have e := (settle_fixed (acceptChange i (!(s.input i).filtered) s)).trans (h _)
  simp only [State.fixed, Fixed.mk.injEq] at e ⊢
  simp only [e, h1, h2, and_self]

theorem handOn_steady (i : InIx) (s : State) : (handOn i s).steady = s.steady := by
  unfold State.steady; rw [handOn_frame]

@[simp] theorem handOn_now (i : InIx) (s : State) : (handOn i s).now = s.now := congrArg Fixed.now (handOn_frame i s)

theorem clockTo_steady (s : State) (t : Nat) : (s.clockTo t).steady = s.steady := by
  simp [State.steady, State.fixed]

/-! ## The passing of time -/

/-- The passing of time touches the clock, the publisher and what accepted changes set going, and not the configuration,
the mode, the peer table, the foreign claims or the timers of ticks and samples. -/
theorem State.passTo_steady (s : State) (t : Nat) : (s.passTo t).steady = s.steady :=
  passTo_keeps (P := fun u => u.steady = s.steady) (fun t u h => (clockTo_steady u t).trans h) (fun _ h => h)
    (fun i u h _ => (handOn_steady i u).trans h) t s rfl

@[simp] theorem State.passTo_cfg (s : State) (t : Nat) : (s.passTo t).cfg = s.cfg := congrArg Fixed.cfg (s.passTo_steady t)
@[simp] theorem State.passTo_mode (s : State) (t : Nat) : (s.passTo t).mode = s.mode := congrArg Fixed.mode (s.passTo_steady t)
@[simp] theorem State.passTo_resetLow (s : State) (t : Nat) : (s.passTo t).resetLow = s.resetLow := congrArg Fixed.resetLow (s.passTo_steady t)
@[simp] theorem State.passTo_faultOut (s : State) (t : Nat) : (s.passTo t).faultOut = s.faultOut := congrArg Fixed.faultOut (s.passTo_steady t)
@[simp] theorem State.passTo_listenTimer (s : State) (t : Nat) : (s.passTo t).listenTimer = s.listenTimer := congrArg Fixed.listenTimer (s.passTo_steady t)
@[simp] theorem State.passTo_peers (s : State) (t : Nat) : (s.passTo t).peers = s.peers := congrArg Fixed.peers (s.passTo_steady t)
@[simp] theorem State.passTo_foreign (s : State) (t : Nat) : (s.passTo t).foreign = s.foreign := congrArg Fixed.foreign (s.passTo_steady t)
@[simp] theorem State.passTo_saturated (s : State) (t : Nat) : (s.passTo t).saturated = s.saturated := congrArg Fixed.saturated (s.passTo_steady t)
@[simp] theorem State.passTo_sense (s : State) (t : Nat) : (s.passTo t).sense = s.sense := congrArg Fixed.sense (s.passTo_steady t)
@[simp] theorem State.passTo_fadeTimer (s : State) (t : Nat) : (s.passTo t).fadeTimer = s.fadeTimer := congrArg Fixed.fadeTimer (s.passTo_steady t)
@[simp] theorem State.passTo_sampleTimer (s : State) (t : Nat) : (s.passTo t).sampleTimer = s.sampleTimer := congrArg Fixed.sampleTimer (s.passTo_steady t)
@[simp] theorem State.passTo_inputTimer (s : State) (t : Nat) : (s.passTo t).inputTimer = s.inputTimer := congrArg Fixed.inputTimer (s.passTo_steady t)
@[simp] theorem State.passTo_clashed (s : State) (t : Nat) : (s.passTo t).link.clashed = s.link.clashed := congrArg Fixed.clashed (s.passTo_steady t)
@[simp] theorem State.passTo_joined (s : State) (t : Nat) : (s.passTo t).link.joined = s.link.joined := congrArg Fixed.joined (s.passTo_steady t)
@[simp] theorem State.passTo_active (s : State) (t : Nat) : (s.passTo t).active = s.active := by simp [State.active]
@[simp] theorem State.passTo_built (s : State) (t : Nat) : (s.passTo t).built = s.built := by simp [State.built]
@[simp] theorem State.passTo_pending (s : State) (t : Nat) : (s.passTo t).pending = s.pending := congrArg Fixed.pending (s.passTo_steady t)

theorem foldl_min_le (l : List Nat) (t : Nat) : l.foldl min t ≤ t := by
  induction l generalizing t with
  | nil => exact Nat.le_refl _
  | cons a l ih => exact Nat.le_trans (ih _) (Nat.min_le_left _ _)

theorem foldl_min_mem (l : List Nat) (t : Nat) : l.foldl min t = t ∨ l.foldl min t ∈ l := by
  induction l generalizing t with
  | nil => exact .inl rfl
  | cons a l ih =>
    rcases ih (min t a) with h | h
    · rw [List.foldl_cons, h]
      rcases Nat.le_total t a with k | k
      · exact .inl (Nat.min_eq_left k)
      · exact .inr (by rw [Nat.min_eq_right k]; exact List.mem_cons_self ..)
    · exact .inr (List.mem_cons_of_mem _ h)

theorem State.nextStop_le (s : State) (t : Nat) : s.nextStop t ≤ t := foldl_min_le _ _

/-- The clock stands at the moment itself, or where it stood when that was past. -/
@[simp] theorem State.passTo_now (s : State) (t : Nat) : (s.passTo t).now = max s.now t := by
  have h : ∀ n (u : State), (passFilters n t u).now ≤ max u.now t ∧ u.now ≤ (passFilters n t u).now := by
    intro n
    induction n with
    | zero => intro u; exact ⟨Nat.le_max_left _ _, Nat.le_refl _⟩
    | succ n ih =>
      intro u
      unfold passFilters
      split
      · exact ⟨Nat.le_max_left _ _, Nat.le_refl _⟩
      · have hle := u.nextStop_le t
        split
        · have := ih (u.clockTo (u.nextStop t)); rw [State.clockTo_now] at this; omega
        · have := ih (handOn (by assumption) u); rw [handOn_now] at this; exact this
        · rename_i i j rest _
          have := ih (handOn ((i :: j :: rest).getD (Config.tieBreak u.choices % (i :: j :: rest).length) i)
            { u with choices := u.choices + 1 })
          rw [handOn_now] at this; exact this
  have := h 33 s
  unfold State.passTo
  rw [State.clockTo_now]; omega

theorem State.passTo_past (s : State) (t : Nat) (h : t ≤ s.now) : s.passTo t = s := by
  have e : passFilters 33 t s = s := by unfold passFilters; rw [if_pos h]
  rw [State.passTo, e, State.clockTo_past s t h]

/-- Where no filter has accepted a change, and none accepts one before the moment, only the clock goes on. -/
theorem State.passTo_quiet (s : State) (t : Nat) (ha : s.accepted = []) (hs : s.nextStop t = t) :
    s.passTo t = s.clockTo t := by
  by_cases h : t ≤ s.now
  · rw [s.passTo_past t h, s.clockTo_past t h]
  · have h1 : passFilters 33 t s = passFilters 32 t (s.clockTo t) := by
      conv => lhs; unfold passFilters
      rw [if_neg h, ha, hs]
    have hn : t ≤ (s.clockTo t).now := by rw [State.clockTo_now]; omega
    have h2 : passFilters 32 t (s.clockTo t) = s.clockTo t := by unfold passFilters; rw [if_pos hn]
    rw [State.passTo, h1, h2, State.clockTo_past _ _ hn]

/-! ## The bound -/

/-- The input's filter is on its way to accepting a change, or has accepted one. -/
def State.isLive (s : State) (i : InIx) : Bool := s.hasAccepted i || s.pins[i] != (s.input i).filtered

/-- What is left of the passing of time: two steps for each such filter, and one more where none has accepted. -/
def State.stepsLeft (s : State) : Nat := 2 * allInputs.countP s.isLive + if s.accepted = [] then 1 else 0

theorem sampleUs_pos (r : Role) : 0 < sampleUs r := by cases r <;> exact Nat.succ_pos _

/-- The samples on the way make no filter live. -/
theorem clockTo_isLive (s : State) (t : Nat) (i : InIx) (h : (s.clockTo t).isLive i = true) : s.isLive i = true := by
  unfold State.isLive State.hasAccepted at *
  rw [State.clockTo_firstSample, State.clockTo_pins, State.clockTo_filtered, State.clockTo_input] at h
  simp only [Bool.or_eq_true, Bool.and_eq_true, bne_iff_ne, ne_eq] at h ⊢
  rcases h with ⟨hb, h⟩ | h
  · split at h
    · exact .inl ⟨hb, h⟩
    · unfold InputRec.sampled at h
      split at h
      · exact .inl ⟨hb, h⟩
      · split at h
        · exact .inl ⟨hb, h⟩
        · exact .inr ‹_›
  · exact .inr h

/-- Where a filter accepts next, it has accepted once the clock stands there. -/
theorem clockTo_accepts (s : State) (i : InIx) (u : Nat) (ha : s.hasAccepted i = false) (h : s.acceptDue i = some u) :
    (s.clockTo u).hasAccepted i = true := by
  unfold State.acceptDue at h
  split at h
  · cases h
  · rename_i first hf
    rw [if_neg (by simp [ha])] at h
    split at h
    · cases h
    · rename_i hraw
      have hu := (Option.some.inj h).symm
      have hna : (s.input i).accepted = false := by
        unfold State.hasAccepted at ha; simpa [hf] using ha
      have he := sampleUs_pos s.cfg.roles[i]
      generalize hq : (s.now - first) / sampleUs s.cfg.roles[i] = q at hu
      generalize hk : max 1 (acceptAt s.cfg.roles[i] - (s.input i).runCount) = k at hu
      have hlt : s.now < u := by
        have h1 : s.now - first < sampleUs s.cfg.roles[i] * (q + 1) := by
          rw [← hq]; exact Nat.lt_mul_div_succ _ he
        have h2 : sampleUs s.cfg.roles[i] * (q + 1) ≤ sampleUs s.cfg.roles[i] * (q + k) :=
          Nat.mul_le_mul_left _ (by omega)
        omega
      have hn : s.samplesTo i u = k := by
        unfold State.samplesTo
        rw [hf]
        dsimp only
        rw [hq, hu, Nat.add_sub_cancel_left, Nat.mul_div_cancel_left _ he]
        omega
      unfold State.hasAccepted
      rw [State.clockTo_firstSample, State.clockTo_input, if_neg (by omega), hn, hf]
      unfold InputRec.sampled
      rw [if_neg (by simp only [hna, Bool.false_eq_true, or_false]; omega), if_neg hraw, if_pos (by omega)]
      rfl

/-- An accepted change that is handed on leaves its filter at rest, and the others as they were. -/
theorem handOn_isLive (i j : InIx) (s : State) :
    (handOn i s).isLive j = if j = i then false else s.isLive j := by
  have hf := handOn_frame i s
  have h1 : (handOn i s).inputs = s.inputs.set i ⟨!(s.input i).filtered, 0, false⟩ := congrArg Fixed.inputs hf
  have h2 : (handOn i s).pins = s.pins.set i (!(s.input i).filtered) := congrArg Fixed.pins hf
  have hm : (handOn i s).mode = s.mode := congrArg Fixed.mode hf
  have hc : (handOn i s).link.clashed = s.link.clashed := congrArg Fixed.clashed hf
  have ht : (handOn i s).inputTimer = s.inputTimer := congrArg Fixed.inputTimer hf
  have hb : (handOn i s).firstSample = s.firstSample := by
    simp [State.firstSample, State.built, State.active, hm, hc, ht]
  unfold State.isLive State.hasAccepted State.input
  rw [hb, h1, h2]
  by_cases h : j = i
  · subst h; simp
  · have hij : i.val ≠ j.val := fun e => h (Fin.ext e.symm)
    simp [h, Vector.getElem_set_ne _ _ hij]

theorem countP_handOn (i : InIx) (s : State) (h : s.isLive i = true) :
    allInputs.countP (handOn i s).isLive < allInputs.countP s.isLive := by
  have hle : ∀ l : List InIx, l.countP (handOn i s).isLive ≤ l.countP s.isLive := fun l =>
    List.countP_mono_left fun j _ hj => by
      rw [handOn_isLive] at hj; split at hj
      · cases hj
      · exact hj
  have hmem : i ∈ allInputs := List.mem_finRange i
  obtain ⟨l, k, hl⟩ := List.append_of_mem hmem
  rw [hl, List.countP_append, List.countP_append, List.countP_cons, List.countP_cons, handOn_isLive, h]
  have h1 := hle l
  have h2 := hle k
  simp only [if_true, Bool.false_eq_true, if_false]
  omega

/-- With as many steps as are left, time passes all the way. -/
theorem passFilters_reaches (t n : Nat) (s : State) (h : s.stepsLeft ≤ n) : t ≤ (passFilters n t s).now := by
  induction n generalizing s with
  | zero =>
    unfold State.stepsLeft at h
    have hc : allInputs.countP s.isLive = 0 := by omega
    have : s.accepted = [] := List.filter_eq_nil_iff.mpr fun i hi => by
      have := List.countP_eq_zero.mp hc i hi
      unfold State.isLive at this; simp_all
    simp [this] at h
  | succ n ih =>
    have change : ∀ i (u : State), i ∈ s.accepted → u.stepsLeft = s.stepsLeft → u.isLive i = s.isLive i →
        t ≤ (passFilters n t (handOn i u)).now := fun i u hi hu hl => ih _ (by
      have ha : s.hasAccepted i = true := (List.mem_filter.mp hi).2
      have h1 := countP_handOn i u (by rw [hl]; simp [State.isLive, ha])
      have h2 : u.stepsLeft ≤ n + 1 := by rw [hu]; exact h
      unfold State.stepsLeft at h2 ⊢
      split <;> omega)
    unfold passFilters
    split
    · assumption
    · split
      · rename_i ha
        rcases foldl_min_mem (allInputs.filterMap s.acceptDue) t with he | he
        · have hn : t ≤ (s.clockTo (s.nextStop t)).now := by
            unfold State.nextStop; rw [he, State.clockTo_now]; omega
          have : passFilters n t (s.clockTo (s.nextStop t)) = s.clockTo (s.nextStop t) := by
            cases n with
            | zero => rfl
            | succ n => unfold passFilters; rw [if_pos hn]
          rw [this]; exact hn
        · obtain ⟨i, -, hi⟩ := List.mem_filterMap.mp he
          have hna : s.hasAccepted i = false := by
            have := List.filter_eq_nil_iff.mp ha i (List.mem_finRange i); simpa using this
          have hacc := clockTo_accepts s i _ hna hi
          refine ih _ ?_
          have hne : (s.clockTo (s.nextStop t)).accepted ≠ [] := fun e =>
            List.filter_eq_nil_iff.mp e i (List.mem_finRange i) hacc
          have hle : allInputs.countP (s.clockTo (s.nextStop t)).isLive ≤ allInputs.countP s.isLive :=
            List.countP_mono_left fun j _ hj => clockTo_isLive _ _ _ hj
          unfold State.stepsLeft at h ⊢
          rw [if_pos ha] at h
          rw [if_neg hne]; omega
      · rename_i i ha
        exact change i s (by rw [ha]; exact List.mem_singleton.mpr rfl) rfl rfl
      · rename_i i j rest ha
        refine change _ { s with choices := s.choices + 1 } ?_ rfl rfl
        rw [ha, List.getD_eq_getElem?_getD, List.getElem?_eq_getElem (Nat.mod_lt _ (by simp)), Option.getD_some]
        exact List.getElem_mem _

/-- The bound of the passing of time is never reached: every change accepted before the moment is handed on. -/
theorem State.passTo_eq (s : State) (t n : Nat) (h : 33 ≤ n) : s.passTo t = passFilters n t s := by
  have hs : s.stepsLeft ≤ 33 := by
    have : allInputs.countP s.isLive ≤ 16 := Nat.le_trans List.countP_le_length (by simp [allInputs])
    unfold State.stepsLeft; split <;> omega
  have more : ∀ k u, t ≤ (passFilters k t u).now → passFilters (k + 1) t u = passFilters k t u := by
    intro k
    induction k with
    | zero => intro u hu; unfold passFilters; rw [if_pos (by simpa [passFilters] using hu)]
    | succ k ih =>
      intro u hu
      by_cases hp : t ≤ u.now
      · conv => lhs; unfold passFilters
        conv => rhs; unfold passFilters
        rw [if_pos hp, if_pos hp]
      · unfold passFilters at hu
        rw [if_neg hp] at hu
        conv => lhs; unfold passFilters
        conv => rhs; unfold passFilters
        rw [if_neg hp, if_neg hp]
        split at hu <;> exact ih _ hu
  have all : ∀ k, passFilters (33 + k) t s = passFilters 33 t s := by
    intro k
    induction k with
    | zero => rfl
    | succ k ih =>
      rw [← ih]
      exact more _ _ (passFilters_reaches t _ s (Nat.le_trans hs (Nat.le_add_right 33 k)))
  have hn := passFilters_reaches t 33 s hs
  rw [State.passTo, State.clockTo_past _ _ hn, show n = 33 + (n - 33) by omega, all]

end Sys2Proof.Machine
end

