-- ==== Sys2Proof/Laws/Settle.lean ====
section
/-! SUPPORT. The consequences of an event end by themselves: each piece of work leaves less to do than it took up, so the
bound that `settle` runs with is enough. What this gives: `settle` by its own recursion, without a bound. -/

namespace Sys2Proof.Machine

/-! ## What a state can still set going -/

/-- What a channel's state can still set going. -/
def MotionState.weight (c : MotionState) : Nat := if c = .tripped then 0 else 24

/-- What a state can still set going. -/
def State.potential (s : State) : Nat :=
  (allMots.map (fun m => (s.mot m).state.weight + (s.claim m).state.weight)).sum + 64 * s.motionQueue.length

/-- The weight of a list of work. -/
def workWeight (acts : List Act) : Nat := (acts.map Act.weight).sum

theorem workLeft_eq (acts : List Act) (s : State) : workLeft acts s = workWeight acts + s.potential :=
  Nat.add_assoc _ _ _

@[simp] theorem workWeight_nil : workWeight [] = 0 := rfl
@[simp] theorem workWeight_cons (a : Act) (l : List Act) : workWeight (a :: l) = a.weight + workWeight l := by
  simp [workWeight]
@[simp] theorem workWeight_append (l k : List Act) : workWeight (l ++ k) = workWeight l + workWeight k := by
  simp [workWeight]

theorem MotionState.weight_le (c : MotionState) : c.weight ≤ 24 := by unfold MotionState.weight; split <;> omega
theorem MotionState.weight_of_ne {c : MotionState} (h : c ≠ .tripped) : c.weight = 24 := if_neg h
@[simp] theorem MotionState.weight_tripped : MotionState.weight .tripped = 0 := rfl
theorem ClaimState.weight_le (c : ClaimState) : c.weight ≤ 16 := by cases c <;> decide

theorem potential_congr {s t : State} (hm : t.mots = s.mots) (hc : t.claims = s.claims)
    (hq : t.motionQueue.length = s.motionQueue.length) : t.potential = s.potential := by
  unfold State.potential State.mot State.claim; rw [hm, hc, hq]

theorem potential_of_offstage {s t : State} (h : t.offstage = s.offstage) : t.potential = s.potential :=
  potential_congr (congrArg State.mots h :) (congrArg State.claims h :)
    (congrArg (fun u => u.motionQueue.length) h :)

theorem potential_of_unlit {s t : State} (h : t.unlit = s.unlit) : t.potential = s.potential :=
  potential_of_offstage (offstage_of_unlit h)

theorem mot_cases (m : MotIx) : m = 0 ∨ m = 1 ∨ m = 2 ∨ m = 3 := by revert m; decide

theorem sum_allMots (f : MotIx → Nat) : (allMots.map f).sum = f 0 + f 1 + f 2 + f 3 := by
  have h : allMots = [0, 1, 2, 3] := by decide
  rw [h]; simp; omega

/-- A changed channel changes the potential by its own share. -/
theorem potential_modMot (s : State) (m : MotIx) (f : MotionCh → MotionCh) :
    (s.modMot m f).potential + (s.mot m).state.weight = s.potential + (f (s.mot m)).state.weight := by
  unfold State.potential
  rw [sum_allMots, sum_allMots]
  simp only [State.modMot_get, State.modMot_claim, State.modMot_motionQueue]
  rcases mot_cases m with rfl | rfl | rfl | rfl <;> simp <;> omega

/-- A changed claim changes the potential by its own share. -/
theorem potential_modClaim (s : State) (m : MotIx) (f : OwnClaim → OwnClaim) :
    (s.modClaim m f).potential + (s.claim m).state.weight = s.potential + (f (s.claim m)).state.weight := by
  unfold State.potential
  rw [sum_allMots, sum_allMots]
  simp only [State.modClaim_get, State.modClaim_mot, State.modClaim_motionQueue]
  rcases mot_cases m with rfl | rfl | rfl | rfl <;> simp <;> omega

theorem potential_modMot_same (s : State) (m : MotIx) (f : MotionCh → MotionCh)
    (h : (f (s.mot m)).state = (s.mot m).state) : (s.modMot m f).potential = s.potential := by
  have := potential_modMot s m f; rw [h] at this; omega

theorem potential_modMot_le (s : State) (m : MotIx) (f : MotionCh → MotionCh) :
    (s.modMot m f).potential ≤ s.potential + 24 := by
  have := potential_modMot s m f; have := MotionState.weight_le (f (s.mot m)).state; omega

theorem potential_modMot_untripped (s : State) (m : MotIx) (f : MotionCh → MotionCh) (h : (s.mot m).state ≠ .tripped) :
    (s.modMot m f).potential ≤ s.potential := by
  have := potential_modMot s m f
  have := MotionState.weight_le (f (s.mot m)).state
  rw [MotionState.weight_of_ne h] at *; omega

theorem potential_modClaim_same (s : State) (m : MotIx) (f : OwnClaim → OwnClaim)
    (h : (f (s.claim m)).state = (s.claim m).state) : (s.modClaim m f).potential = s.potential := by
  have := potential_modClaim s m f; rw [h] at this; omega

@[simp] theorem potential_recompute (g : SegIx) (s : State) : (recompute g s).potential = s.potential :=
  potential_of_unlit (recompute_unlit g s)

@[simp] theorem potential_modLink (s : State) (f : Link → Link) : (s.modLink f).potential = s.potential := rfl
@[simp] theorem potential_modPress (s : State) (b : BindIx) (f : Press → Press) :
    (s.modPress b f).potential = s.potential := rfl

/-! ## What an operation adds -/

/-- An operation leaves at most `k` more to do than its state could set going before it. -/
def Op.Costs (op : Op) (k : Nat) : Prop := ∀ s, workWeight (op s).2 + (op s).1.potential ≤ s.potential + k

theorem Op.Costs.mono {op : Op} {j k : Nat} (h : Op.Costs op j) (hk : j ≤ k) : Op.Costs op k := fun s => by
  have := h s; omega

theorem Op.costs_set {f : State → State} (h : ∀ s, (f s).potential = s.potential) : Op.Costs (Op.set f) 0 := fun s => by
  simp [h]

theorem Op.costs_skip : Op.Costs Op.skip 0 := fun s => by simp

theorem Op.costs_emit {f : State → List Act} {k : Nat} (h : ∀ s, workWeight (f s) ≤ k) : Op.Costs (Op.emit f) k :=
  fun s => by have := h s; simp; omega

theorem Op.costs_andThen {a b : Op} {j k : Nat} (ha : Op.Costs a j) (hb : Op.Costs b k) :
    Op.Costs (Op.andThen a b) (j + k) := fun s => by
  have h1 := ha s; have h2 := hb (a s).1
  simp only [Op.andThen_fst, Op.andThen_snd, workWeight_append]; omega

theorem Op.costs_nil : Op.Costs (Op.chain []) 0 := Op.costs_skip

theorem Op.costs_cons {a : Op} {l : List Op} {j k : Nat} (ha : Op.Costs a j) (hl : Op.Costs (Op.chain l) k) :
    Op.Costs (Op.chain (a :: l)) (j + k) := Op.costs_andThen ha hl

theorem Op.costs_each {α : Type} {f : α → Op} {k : Nat} (h : ∀ a, Op.Costs (f a) k) (l : List α) :
    Op.Costs (Op.each f l) (l.length * k) := by
  induction l with
  | nil => exact (Op.costs_nil).mono (Nat.zero_le _)
  | cons a l ih =>
    refine (Op.costs_cons (h a) ih).mono ?_
    simp [Nat.add_mul]; omega

theorem Op.costs_cond {c : State → Bool} {a b : Op} {k : Nat} (ha : Op.Costs a k) (hb : Op.Costs b k) :
    Op.Costs (Op.cond c a b) k := fun s => by
  unfold Op.cond; split
  · exact ha s
  · exact hb s

theorem Op.costs_eitherFirst {a b : State → List Act} {j k : Nat} (ha : ∀ s, workWeight (a s) ≤ j)
    (hb : ∀ s, workWeight (b s) ≤ k) : Op.Costs (Op.eitherFirst a b) (j + k) := fun s => by
  have h1 := ha s; have h2 := hb s
  have h3 : (Op.eitherFirst a b s).1.potential = s.potential := rfl
  have h4 : workWeight (Op.eitherFirst a b s).2 ≤ j + k := by
    unfold Op.eitherFirst; dsimp only; split <;> simp only [workWeight_append] <;> omega
  omega

/-- A list of work, each piece of one weight. -/
theorem workWeight_map {α : Type} {f : α → Act} {k : Nat} (l : List α) (h : ∀ a, (f a).weight = k) :
    workWeight (l.map f) = l.length * k := by
  induction l with
  | nil => simp
  | cons a l ih => simp [ih, h, Nat.add_mul]; omega

@[simp] theorem workWeight_locks (e : LockEvent) : workWeight (lockWork e) = 4 := rfl

theorem workWeight_answer (n : NodeId) (t : Nat) (w : Bool) (o : Outcome) (s : State) :
    workWeight (answerWork n t w o s) ≤ 2 := by
  unfold answerWork; split <;> simp [Act.weight]

theorem answerMotion_costs (c : MotionCmd) (o : Outcome) : Op.Costs (answerMotion c o) 2 :=
  Op.costs_emit fun _ => workWeight_answer ..

theorem answerCmd_costs (c : Cmd) (o : Outcome) : Op.Costs (answerCmd c o) 2 :=
  Op.costs_emit fun _ => workWeight_answer ..

theorem refreshPosture_costs (m : MotIx) : Op.Costs (refreshPosture m) 4 := fun s => by
  unfold refreshPosture; split
  · simp
  · have := potential_modMot_same s m (fun c => { c with posture := s.derivePosture m }) rfl
    simp only [workWeight_locks]; omega

/-! ## Claims -/

/-- A withdrawal uses up the claim; its zero CLAIM costs less. -/
theorem withdraw_cost (m : MotIx) (s : State) :
    workWeight (withdraw m s).2 + (withdraw m s).1.potential + (s.claim m).state.weight ≤
      s.potential + (if (s.claim m).state = .opened ∨ (s.claim m).state = .held then 2 else 0) := by
  unfold withdraw
  dsimp only
  cases h : (s.claim m).state
  · simp [ClaimState.weight]
  · have := potential_modClaim s m (fun r => { r with state := .none, settle := .zero })
    simp [h, ClaimState.weight] at *; omega
  all_goals
    have := potential_modClaim s m (fun r => { r with state := .none, settle := .zero, inFlight := r.inFlight + 1 })
    simp [h, ClaimState.weight, Act.weight] at *; omega

theorem withdraw_costs (m : MotIx) : Op.Costs (withdraw m) 0 := fun s => by
  have := withdraw_cost m s
  cases h : (s.claim m).state <;> simp_all [ClaimState.weight] <;> omega

theorem createClaim_costs (m : MotIx) (l : Nat) (o : Bool) : Op.Costs (createClaim m l o) 16 := fun s => by
  unfold createClaim
  dsimp only
  generalize hf : recompute _ (s.modClaim m _) = filled
  have hp : filled.potential + (s.claim m).state.weight = s.potential + 16 := by
    rw [← hf, potential_recompute, potential_modClaim]; rfl
  have hc : (filled.claim m).state = .waiting := by
    rw [← hf]
    have e : ∀ (g : SegIx) (t : State), (recompute g t).claims = t.claims := fun g t =>
      (congrArg State.claims (recompute_unlit g t) :)
    simp [State.claim, e, State.modClaim]
  split
  · have h1 := potential_modClaim filled m
      (fun r => { r with state := .opened, settle := .running filled.now, inFlight := r.inFlight + 1 })
    simp [openClaim, Act.weight, hc, ClaimState.weight] at *; omega
  · simp; omega

theorem endHold_potential (m : MotIx) (s : State) : (endHold m s).potential ≤ s.potential := by
  unfold endHold
  have := potential_modClaim s m (fun r => { r with state := .none, settle := .zero })
  simp [ClaimState.weight] at *; omega

/-! ## Motion -/

theorem becomeIdle_costs (m : MotIx) : Op.Costs (becomeIdle m) 29 := fun s => by
  have h1 := refreshPosture_costs m (s.modMot m (fun c => { c with state := .idle, holder := none, deadTimer := .zero }))
  have h2 := potential_modMot_le s m (fun c => { c with state := .idle, holder := none, deadTimer := .zero })
  simp [becomeIdle, Act.weight] at *; omega

theorem becomeIdle_cost (m : MotIx) (s : State) (h : (s.mot m).state ≠ .tripped) :
    workWeight (becomeIdle m s).2 + (becomeIdle m s).1.potential ≤ s.potential + 5 := by
  have h1 := refreshPosture_costs m (s.modMot m (fun c => { c with state := .idle, holder := none, deadTimer := .zero }))
  have h2 := potential_modMot_untripped s m (fun c => { c with state := .idle, holder := none, deadTimer := .zero }) h
  simp [becomeIdle, Act.weight] at *; omega

theorem endClaiming_costs (m : MotIx) : Op.Costs (endClaiming m) 29 :=
  (Op.costs_cons (withdraw_costs m) (Op.costs_cons (becomeIdle_costs m) Op.costs_nil)).mono (by omega)

theorem enterSettling_costs (m : MotIx) : Op.Costs (enterSettling m) 28 := by
  refine (Op.costs_cons (j := 24) ?_ (Op.costs_cons (withdraw_costs m)
    (Op.costs_cons (refreshPosture_costs m) Op.costs_nil))).mono (by omega)
  intro s
  simpa using potential_modMot_le s m _

theorem enterStopping_costs (m : MotIx) : Op.Costs (enterStopping m) 28 := by
  refine (Op.costs_cons (j := 24) ?_ (Op.costs_cons (withdraw_costs m)
    (Op.costs_cons (refreshPosture_costs m) Op.costs_nil))).mono (by omega)
  intro s
  simpa using potential_modMot_le s m _

theorem enterSlowBand_potential (m : MotIx) (s : State) : (enterSlowBand m s).potential = s.potential := by
  unfold enterSlowBand beginSpeedFade
  rw [potential_modMot_same, potential_modMot_same] <;> rfl

theorem slowBandTest_costs (m : MotIx) : Op.Costs (slowBandTest m) 0 := by
  refine Op.costs_set fun s => ?_
  split
  · exact enterSlowBand_potential m s
  · rfl

theorem targetTest_costs (m : MotIx) : Op.Costs (targetTest m) 28 :=
  Op.costs_cond (enterStopping_costs m) (Op.costs_skip.mono (by omega))

theorem positionTests_costs (m : MotIx) : Op.Costs (positionTests m) 28 :=
  Op.costs_cond ((Op.costs_cons (slowBandTest_costs m) (Op.costs_cons (targetTest_costs m) Op.costs_nil)).mono (by omega))
    (Op.costs_skip.mono (by omega))

theorem dropFollowOn_costs (m : MotIx) : Op.Costs (dropFollowOn m) 2 := fun s => by
  unfold dropFollowOn; split
  · rename_i h _
    have h1 := potential_modMot_same s m (fun c => { c with followOn := none }) rfl
    have h2 := answerMotion_costs h.cmd .cancelled (s.modMot m (fun c => { c with followOn := none }))
    simp at *; omega
  · simp

theorem handOnTrip_costs (m : MotIx) (r : TripReason) : Op.Costs (handOnTrip m r) 8 := fun s => by
  have h1 := refreshPosture_costs m s
  have hs : workWeight (s.siblingWork m r) ≤ 4 := by unfold State.siblingWork; split <;> simp [Act.weight]
  unfold handOnTrip
  dsimp only
  generalize s.siblingWork m r = sib at *
  split
  · simp only [workWeight_append]; omega
  · have h2 : (Op.eitherFirst (fun _ => (refreshPosture m s).2) (fun _ => sib) (refreshPosture m s).1).1.potential =
        (refreshPosture m s).1.potential := rfl
    have h3 : workWeight (Op.eitherFirst (fun _ => (refreshPosture m s).2) (fun _ => sib) (refreshPosture m s).1).2 =
        workWeight (refreshPosture m s).2 + workWeight sib := by
      unfold Op.eitherFirst; dsimp only; split <;> simp only [workWeight_append] <;> omega
    omega

/-- A trip uses the channel up; what follows costs less. -/
theorem trip_costs (m : MotIx) (r : TripReason) : Op.Costs (trip m r) 0 := by
  intro s
  unfold trip Op.cond
  split
  · simp
  · rename_i h
    have hn : (s.mot m).state ≠ .tripped := by simpa using h
    have h1 := potential_modMot s m (fun c => { c.cut with
      state := .tripped, holder := none, stallTimer := .zero, deadTimer := c.deadTimer.halt s.now, tripReason := some r })
    rw [MotionState.weight_of_ne hn] at h1
    have h2 := Op.costs_cons (withdraw_costs m)
      (Op.costs_cons (dropFollowOn_costs m) (Op.costs_cons (handOnTrip_costs m r) Op.costs_nil))
      (s.modMot m (fun c => { c.cut with
        state := .tripped, holder := none, stallTimer := .zero, deadTimer := c.deadTimer.halt s.now,
        tripReason := some r }))
    rw [Op.chain_cons]
    simp only [Op.set_run, List.nil_append, MotionState.weight_tripped] at *
    omega

theorem tripIfMoving_costs (m : MotIx) (r : TripReason) : Op.Costs (tripIfMoving m r) 0 :=
  Op.costs_cond (trip_costs m r) Op.costs_skip

theorem siblingTrips_costs : Op.Costs siblingTrips 0 := by
  have h := Op.costs_each (f := siblingTrip) (k := 0)
    (fun m => Op.costs_cond (tripIfMoving_costs m .sibling) Op.costs_skip) allMots
  rwa [Nat.mul_zero] at h

theorem yieldClaim_cost (m : MotIx) (s : State)
    (h : (s.claim m).state = .waiting ∨ (s.claim m).state = .opened) :
    workWeight (yieldClaim m s).2 + (yieldClaim m s).1.potential ≤ s.potential := by
  have h1 := withdraw_cost m s
  have hw : 12 ≤ (s.claim m).state.weight := by rcases h with h | h <;> simp [h, ClaimState.weight]
  have h2 : workWeight (Op.cond (fun s => (s.mot m).state == .claiming) (becomeIdle m) Op.skip (withdraw m s).1).2 +
      (Op.cond (fun s => (s.mot m).state == .claiming) (becomeIdle m) Op.skip (withdraw m s).1).1.potential ≤
      (withdraw m s).1.potential + 5 := by
    unfold Op.cond; split
    · rename_i hc
      refine becomeIdle_cost m _ ?_
      intro e
      have hc' : (((withdraw m s).1.mot m).state == MotionState.claiming) = true := hc
      rw [e] at hc'; exact absurd hc' (by decide)
    · simp
  have h3 : (if (s.claim m).state = .opened ∨ (s.claim m).state = .held then 2 else 0) ≤ 2 := by split <;> omega
  unfold yieldClaim
  simp only [Op.chain_cons, Op.chain_nil, workWeight_append, workWeight_nil]
  omega

theorem releaseWaiting_costs (m : MotIx) : Op.Costs (releaseWaiting m) 0 := fun s => by
  unfold releaseWaiting Op.cond; split
  · rename_i h
    have hc : (s.claim m).state = .waiting := by simp at h; exact h.1
    have h1 := potential_modClaim s m
      (fun r => { r with state := .opened, settle := .running s.now, inFlight := r.inFlight + 1 })
    simp [openClaim, Act.weight, hc, ClaimState.weight] at *; omega
  · simp

theorem creationReport_costs (b : Bool) (m : MotIx) : Op.Costs (creationReport b m) 0 := fun s => by
  have h1 := potential_modClaim_same s m (fun r => { r with sendMoment := some s.now }) rfl
  unfold creationReport; dsimp only
  split
  · simp
  · split
    · split
      · rename_i h _
        have := yieldClaim_cost m s (.inr h); omega
      · simp; omega
    · simp; omega
    · simp
    · simp

theorem takeReport_costs (b : Bool) (f : TxFrame) : Op.Costs (takeReport b f) 0 := by
  obtain ⟨_, body, _, _⟩ := f
  cases body with
  | claim m g a h =>
    refine Op.costs_cons (j := 0) ?_ (Op.costs_cons (j := 0) ?_ (Op.costs_cons (releaseWaiting_costs m) Op.costs_nil))
    · exact Op.costs_set fun s => potential_modClaim_same s m _ rfl
    · split
      · exact creationReport_costs b m
      · exact Op.costs_skip
  | _ => exact Op.costs_skip

theorem contendClaim_costs (m : MotIx) (g : SegIx) (l : Nat) (n : NodeId) : Op.Costs (contendClaim m g l n) 0 :=
  fun s => by
  unfold contendClaim Op.cond; split
  · rename_i h
    simp only [Bool.and_eq_true, Bool.or_eq_true, beq_iff_eq] at h
    have := yieldClaim_cost m s h.1.1.1.1; omega
  · simp

theorem enterClaiming_costs (m : MotIx) (c : MotionCmd) (d : Dir) (dl : Option Nat) :
    Op.Costs (enterClaiming m c d dl) 46 := by
  refine (Op.costs_cons (j := 24) ?_ (Op.costs_cons (j := 16) ?_ (Op.costs_cons (answerMotion_costs c .taken)
    (Op.costs_cons (refreshPosture_costs m) Op.costs_nil)))).mono (by omega)
  · intro s; simpa [setHolder] using potential_modMot_le s m _
  · exact fun s => createClaim_costs m c.level (s.cfg.isOverride c.origin c.level) s

theorem takeCommand_costs (m : MotIx) (c : MotionCmd) (a b : Option Nat) {refused completed : Op}
    (hr : Op.Costs refused 29) (hc : Op.Costs completed 29) : Op.Costs (takeCommand m c a b refused completed) 46 :=
  fun s => by
  unfold takeCommand; split
  · exact (Op.costs_cons (answerMotion_costs c _) (Op.costs_cons hr Op.costs_nil)).mono (by omega) s
  · exact (Op.costs_cons (answerMotion_costs c _) (Op.costs_cons hc Op.costs_nil)).mono (by omega) s
  · exact enterClaiming_costs m c _ b s

theorem thenTake_costs (m : MotIx) : Op.Costs (thenTake m) 29 := Op.costs_emit fun _ => by simp [Act.weight]

/-- A pending entry is used up by its take. -/
theorem takePending_costs (m : MotIx) : Op.Costs (takePending m) 0 := fun s => by
  unfold takePending; split
  · simp
  · split
    · simp
    · rename_i e he
      generalize hu : ({ s with motionQueue := s.motionQueue.eraseP (fun x => x.channel == m) } : State) = u
      have hl : (s.motionQueue.eraseP (fun x => x.channel == m)).length = s.motionQueue.length - 1 :=
        List.length_eraseP_of_mem (List.mem_of_find?_eq_some he) (by simpa using List.find?_some he)
      have hpos : 0 < s.motionQueue.length := List.length_pos_of_mem (List.mem_of_find?_eq_some he)
      have hp : u.potential + 64 = s.potential := by
        have h1 : u.potential = (allMots.map (fun m => (s.mot m).state.weight + (s.claim m).state.weight)).sum +
            64 * (s.motionQueue.eraseP (fun x => x.channel == m)).length := by rw [← hu]; rfl
        rw [h1, hl]; unfold State.potential; omega
      have := takeCommand_costs m e.cmd none (s.linkDeadline m e.cmd e.deadline) (thenTake_costs m) (thenTake_costs m) u
      omega

theorem emptyQueue_costs (o : Outcome) : Op.Costs (emptyQueue o) 0 := fun s => by
  unfold emptyQueue
  have h1 := Op.costs_each (f := fun e : PendEntry => answerMotion e.cmd o) (fun e => answerMotion_costs e.cmd o)
    s.motionQueue { s with motionQueue := [] }
  have h2 : ({ s with motionQueue := [] } : State).potential + 64 * s.motionQueue.length = s.potential := rfl
  omega

theorem latchFollowOn_costs (m : MotIx) : Op.Costs (latchFollowOn m) 2 :=
  Op.costs_cond (dropFollowOn_costs m) (Op.costs_skip.mono (by omega))

theorem loseHold_costs (m : MotIx) : Op.Costs (loseHold m) 29 := fun s => by
  unfold loseHold; split
  · exact endClaiming_costs m s
  · have := enterStopping_costs m s; omega
  · have := enterStopping_costs m s; omega
  all_goals simp

theorem haltMotion_costs (m : MotIx) : Op.Costs (haltMotion m) 29 := fun s => by
  unfold haltMotion; split
  · exact endClaiming_costs m s
  · have := enterStopping_costs m s; omega
  · have := enterStopping_costs m s; omega
  · have := enterSettling_costs m s; omega
  all_goals simp

theorem setLatch_costs : Op.Costs setLatch 8 := by
  have h0 : Op.Costs (Op.set (fun s : State => { s with stopLatch := true })) 0 := Op.costs_set fun s => rfl
  have h1 : Op.Costs (Op.each (fun m => tripIfMoving m .stop) allMots) 0 := by
    have h := Op.costs_each (fun m => tripIfMoving_costs m .stop) allMots
    rwa [Nat.mul_zero] at h
  have h2 := Op.costs_each latchFollowOn_costs allMots
  have h3 := Op.costs_cons h0 (Op.costs_cons h1 (Op.costs_cons h2
    (Op.costs_cons (emptyQueue_costs (.refused .stopped)) Op.costs_nil)))
  have h4 : 0 + (0 + (allMots.length * 2 + (0 + 0))) = 8 := by decide
  rw [h4] at h3
  unfold setLatch
  exact Op.costs_cond (Op.costs_skip.mono (Nat.zero_le _)) h3

/-! ## Inputs -/

theorem reference_potential (m : MotIx) (d : Dir) (s : State) : (reference m d s).potential = s.potential := by
  unfold reference; split
  · exact potential_modMot_same _ _ _ rfl
  · rfl

theorem contactStops_costs (m : MotIx) (d : Dir) : Op.Costs (contactStops m d) 28 := fun s => by
  unfold contactStops; repeat' split
  · simp
  · have := trip_costs m .sensor s; omega
  · exact enterSettling_costs m s
  · have := trip_costs m .sensor s; omega
  · exact positionTests_costs m s

theorem endContact_costs (m : MotIx) (d : Dir) (b : Bool) : Op.Costs (endContact m d b) 32 := by
  unfold endContact; split
  · exact (Op.costs_cons (Op.costs_set (reference_potential m d)) (Op.costs_cons (contactStops_costs m d)
      (Op.costs_cons (refreshPosture_costs m) Op.costs_nil))).mono (by omega)
  · exact (refreshPosture_costs m).mono (by omega)

theorem takePulse_costs (m : MotIx) : Op.Costs (takePulse m) 32 :=
  (Op.costs_cons (Op.costs_set fun s => potential_modMot_same s m _ rfl)
    (Op.costs_cons (Op.costs_cond (positionTests_costs m) (Op.costs_skip.mono (by omega)))
      (Op.costs_cons (refreshPosture_costs m) Op.costs_nil))).mono (by omega)

theorem bindWork_weight (b : BindIx) (v : Nat) (w : Bool) (args : List Byte) (s : State) :
    workWeight (bindWork b v w args s) ≤ 400 := by
  unfold bindWork; dsimp only; split <;> simp [Act.weight]

theorem fireBinding_costs (i : InIx) (b : BindIx) : Op.Costs (fireBinding i b) 400 :=
  Op.costs_cond ((Op.costs_cons (Op.costs_set fun s => potential_modPress ..)
    (Op.costs_cons (Op.costs_emit fun s => bindWork_weight ..) Op.costs_nil)).mono (by omega))
    (Op.costs_skip.mono (by omega))

theorem releaseBinding_costs (i : InIx) (b : BindIx) : Op.Costs (releaseBinding i b) 400 := by
  refine Op.costs_cond ((Op.costs_cons (Op.costs_emit (k := 400) fun s => ?_)
    (Op.costs_cons (Op.costs_set fun s => potential_modPress ..) Op.costs_nil)).mono (by omega))
    (Op.costs_skip.mono (by omega))
  split
  · exact bindWork_weight ..
  · simp

theorem keyChange_costs (i : InIx) (b : Bool) : Op.Costs (keyChange i b) 3200 := by
  unfold keyChange; split
  · exact Op.costs_cond (Op.costs_each (fireBinding_costs i) allBinds) (Op.costs_skip.mono (by omega))
  · exact Op.costs_each (releaseBinding_costs i) allBinds

theorem estopChange_costs (b : Bool) : Op.Costs (estopChange b) 19 := by
  unfold estopChange; split
  · exact (Op.costs_cons setLatch_costs (Op.costs_cons (Op.costs_emit (k := 2) fun _ => by simp [Act.weight])
      (Op.costs_cons (Op.costs_set fun s => rfl) Op.costs_nil))).mono (by omega)
  · exact (Op.costs_set fun s => rfl).mono (by omega)

theorem holdChange_costs (m : MotIx) (b : Bool) : Op.Costs (holdChange m b) 29 :=
  Op.costs_cond (loseHold_costs m) (Op.costs_skip.mono (by omega))

theorem roleChange_costs (i : InIx) (b : Bool) : Op.Costs (roleChange i b) 3200 := fun s => by
  unfold roleChange; split
  · simp
  · simp
  · exact keyChange_costs i b s
  · have := endContact_costs ‹_› .inward b s; omega
  · have := endContact_costs ‹_› .outward b s; omega
  · split
    · have := takePulse_costs ‹_› s; omega
    · simp
  · have := holdChange_costs ‹_› b s; omega
  · split
    · have := tripIfMoving_costs ‹_› .guard s; omega
    · simp
  · have := estopChange_costs b s; omega

/-! ## Commands -/

theorem dimmerVerb_costs (v : Verb) {act : DimIx → State → State} (h : ∀ d s, (act d s).potential = s.potential) (c : Cmd) :
    Op.Costs (dimmerVerb v act c) 2 := fun s => by
  unfold dimmerVerb; split
  · split
    · exact (Op.costs_cons (Op.costs_set (h _)) (Op.costs_cons (answerCmd_costs c .taken) Op.costs_nil)).mono (by omega) s
    · exact answerCmd_costs c _ s
  · exact answerCmd_costs c _ s

theorem removePending_costs (n : NodeId) (t : Nat) (o : Outcome) : Op.Costs (removePending n t o) 2 := fun s => by
  unfold removePending; split
  · rename_i e _
    have h1 := answerMotion_costs e.cmd o { s with motionQueue := s.motionQueue.eraseP (fun x => x.named n t) }
    have h2 : (s.motionQueue.eraseP (fun x => x.named n t)).length ≤ s.motionQueue.length := List.length_eraseP_le
    have h3 : State.potential { s with motionQueue := s.motionQueue.eraseP (fun x => x.named n t) } ≤ s.potential := by
      show _ + _ ≤ _ + _
      exact Nat.add_le_add (Nat.le_refl _) (Nat.mul_le_mul (Nat.le_refl _) h2)
    omega
  · simp

theorem insertPending_length (e : PendEntry) (l : List PendEntry) : (insertPending e l).length = l.length + 1 := by
  induction l with
  | nil => rfl
  | cons x l ih => unfold insertPending; split <;> simp [ih]

theorem enterQueue_costs (m : MotIx) (c : MotionCmd) : Op.Costs (enterQueue m c) 66 := by
  refine (Op.costs_cons (j := 64) ?_ (Op.costs_cons (answerMotion_costs c .queued) Op.costs_nil)).mono (by omega)
  intro s
  have h : ∀ e, State.potential { s with motionQueue := insertPending e s.motionQueue } = s.potential + 64 := by
    intro e
    show _ + 64 * (insertPending e s.motionQueue).length = _ + 64 * s.motionQueue.length + 64
    rw [insertPending_length, Nat.mul_add, Nat.add_assoc]
    rfl
  simp [h]

theorem queueCommand_costs (m : MotIx) (c : MotionCmd) : Op.Costs (queueCommand m c) 68 := fun s => by
  unfold queueCommand; repeat' split
  · have := enterQueue_costs m c s; omega
  · rename_i w _ _
    have h1 : workWeight (Op.set (fun t => { t with motionQueue := t.motionQueue.dropLast }) s).2 +
        (Op.set (fun t => { t with motionQueue := t.motionQueue.dropLast }) s).1.potential ≤ s.potential := by
      show 0 + (_ + 64 * s.motionQueue.dropLast.length) ≤ _ + 64 * s.motionQueue.length
      simp only [List.length_dropLast]
      exact Nat.le_trans (Nat.le_of_eq (Nat.zero_add _)) (Nat.add_le_add_left (by omega) _)
    have h2 := Op.costs_cons (answerMotion_costs w.cmd .displaced) (Op.costs_cons (enterQueue_costs m c) Op.costs_nil)
      (Op.set (fun t => { t with motionQueue := t.motionQueue.dropLast }) s).1
    rw [Op.chain_cons]
    simp only [workWeight_append]; omega
  · have := answerMotion_costs c (.refused .full) s; omega
  · have := answerMotion_costs c (.refused .full) s; omega

theorem beginSpeedFade_potential (m : MotIx) (t n : Nat) (s : State) :
    (beginSpeedFade m t n s).potential = s.potential := potential_modMot_same _ _ _ rfl

theorem retarget_potential (m : MotIx) (s : State) : (retarget m s).potential = s.potential := by
  unfold retarget; dsimp only; split
  · exact enterSlowBand_potential m s
  split
  · exact potential_modMot_same _ _ _ rfl
  · rw [beginSpeedFade_potential]; exact potential_modMot_same _ _ _ rfl

theorem replaceHolder_costs (m : MotIx) (c : MotionCmd) : Op.Costs (replaceHolder m c) 30 := by
  refine (Op.costs_cons (j := 0) (Op.costs_set fun s => potential_modMot_same _ _ _ rfl)
    (Op.costs_cons (answerMotion_costs c .taken) (Op.costs_cons (j := 0) (Op.costs_set fun s => ?_)
      (Op.costs_cons (j := 28) (Op.costs_cond ?_ (Op.costs_skip.mono (by omega))) Op.costs_nil)))).mono (by omega)
  · split
    · exact potential_modClaim_same _ _ _ rfl
    · rfl
  · exact (Op.costs_cons (Op.costs_set (retarget_potential m)) (Op.costs_cons (targetTest_costs m) Op.costs_nil)).mono
      (by omega)

theorem samePreemption_costs (m : MotIx) (c : MotionCmd) : Op.Costs (samePreemption m c) 30 := fun s => by
  unfold samePreemption; repeat' split
  · have := answerMotion_costs c (.refused .badArgument) s; omega
  · have := answerMotion_costs c (.refused .interlock) s; omega
  · exact replaceHolder_costs m c s

theorem oppositeClaiming_costs (m : MotIx) (c : MotionCmd) : Op.Costs (oppositeClaiming m c) 46 := fun s => by
  unfold oppositeClaiming; split
  · rename_i r _; have := answerMotion_costs c (.refused r) s; omega
  · exact (Op.costs_cons (withdraw_costs m) (Op.costs_cons (answerMotion_costs c .taken)
      (Op.costs_cons (becomeIdle_costs m) Op.costs_nil))).mono (by omega) s
  · exact (Op.costs_cons (withdraw_costs m) (Op.costs_cons (enterClaiming_costs m c _ _) Op.costs_nil)).mono (by omega) s

theorem oppositeDriven_costs (m : MotIx) (c : MotionCmd) : Op.Costs (oppositeDriven m c) 30 :=
  (Op.costs_cons (Op.costs_set fun s => potential_modMot_same _ _ _ rfl) (Op.costs_cons (answerMotion_costs c .queued)
    (Op.costs_cons (enterStopping_costs m) Op.costs_nil))).mono (by omega)

theorem preempt_costs (m : MotIx) (c : MotionCmd) : Op.Costs (preempt m c) 46 := fun s => by
  have h1 := samePreemption_costs m c s
  unfold preempt; repeat' split
  · have := answerMotion_costs c (.refused .unreferenced) s; omega
  · omega
  · omega
  · exact oppositeClaiming_costs m c s
  · have := oppositeDriven_costs m c s; omega

theorem motionByState_costs (m : MotIx) (c : MotionCmd) : Op.Costs (motionByState m c) 68 := fun s => by
  have h1 := queueCommand_costs m c s
  have h2 := preempt_costs m c s
  unfold motionByState; repeat' split
  · have := takeCommand_costs m c none (s.arrivalDeadline m c) (Op.costs_skip.mono (by omega)) (thenTake_costs m) s
    omega
  all_goals first
    | omega
    | (have := answerMotion_costs c (.refused .tripped) s; omega)

theorem motionCommand_costs (m : MotIx) (c : MotionCmd) : Op.Costs (motionCommand m c) 70 := fun s => by
  unfold motionCommand; repeat' split
  · have := answerMotion_costs c (.refused .stopped) s; omega
  · have := answerMotion_costs c (.refused .notReady) s; omega
  · exact (Op.costs_cons (removePending_costs _ _ _) (Op.costs_cons (motionByState_costs m c) Op.costs_nil)).mono
      (by omega) s

theorem motionVerb_costs (v : Verb) {act : MotIx → Op} (h : ∀ m, Op.Costs (act m) 70) (c : Cmd) :
    Op.Costs (motionVerb v act c) 70 := fun s => by
  unfold motionVerb; repeat' split
  · exact h _ s
  · have := answerCmd_costs c (.refused .badArgument) s; unfold badArgument; omega
  · have := answerCmd_costs c (.refused .badArgument) s; unfold badArgument; omega

theorem haltChannel_costs (c : Cmd) (m : MotIx) : Op.Costs (haltChannel c m) 70 := fun s => by
  unfold haltChannel; split
  · rename_i e _
    have h1 : (s.motionQueue.eraseP (fun x => x.named c.origin c.tag && x.channel == m)).length ≤
        s.motionQueue.length := List.length_eraseP_le
    have h2 := Op.costs_cons (answerMotion_costs e.cmd .cancelled) (Op.costs_cons (answerCmd_costs c .taken) Op.costs_nil)
      { s with motionQueue := s.motionQueue.eraseP (fun x => x.named c.origin c.tag && x.channel == m) }
    have h3 : State.potential
        { s with motionQueue := s.motionQueue.eraseP (fun x => x.named c.origin c.tag && x.channel == m) } ≤
        s.potential := by
      show _ + _ ≤ _ + _
      exact Nat.add_le_add (Nat.le_refl _) (Nat.mul_le_mul (Nat.le_refl _) h1)
    rw [Op.chain_cons]
    simp only [Op.set_run, List.nil_append]; omega
  · have h1 := Op.costs_cons (answerCmd_costs c .taken) (Op.costs_cons (haltMotion_costs m) Op.costs_nil) s
    have h2 := answerCmd_costs c (.refused .outranked) s
    cases (s.mot m).state <;> dsimp only
    all_goals first
      | omega
      | (split <;> omega)

theorem setSoftFlag_costs (i : Fin 4) (v : Bool) : Op.Costs (setSoftFlag i v) 4 := fun s => by
  unfold setSoftFlag; split
  · simp
  · have h : State.potential { s with softFlags := s.softFlags.set i v } = s.potential := rfl
    simp only [workWeight_locks, h]; omega

theorem flagCommand_costs (c : Cmd) : Op.Costs (flagCommand c) 6 := fun s => by
  unfold flagCommand; split
  · exact (Op.costs_cons (answerCmd_costs c .taken) (Op.costs_cons (setSoftFlag_costs _ _) Op.costs_nil)).mono
      (by omega) s
  · have := answerCmd_costs c (.refused .badArgument) s; unfold badArgument; omega

theorem cancelMatching_costs (n : NodeId) (t : Nat) (m : MotIx) : Op.Costs (cancelMatching n t m) 2 := fun s => by
  unfold cancelMatching; split
  · exact dropFollowOn_costs m s
  · simp

theorem cancelCommand_costs (c : Cmd) : Op.Costs (cancelCommand c) 12 := by
  unfold cancelCommand; split
  · exact (Op.costs_cons (answerCmd_costs c .taken) (Op.costs_cons (removePending_costs _ _ _)
      (Op.costs_cons (Op.costs_each (cancelMatching_costs _ _) allMots) Op.costs_nil))).mono (by simp [allMots])
  · exact (answerCmd_costs c _).mono (by omega)

theorem restartMotion_costs (m : MotIx) : Op.Costs (restartMotion m) 28 :=
  Op.costs_cond (enterSettling_costs m) (Op.costs_skip.mono (by omega))

theorem warmRestart_costs : Op.Costs warmRestart 136 := by
  have hd : Op.Costs (Op.set (foldState restartDimmer allDims)) 0 :=
    Op.costs_set fun s => potential_of_unlit (foldState_unlit restartDimmer_unlit _ _)
  have hc : Op.Costs (Op.set (fun s =>
      { s with scenes := [], partialCue := false, presses := Vector.replicate 8 ⟨false, none⟩ })) 0 :=
    Op.costs_set fun s => potential_congr rfl rfl rfl
  have h := Op.costs_cons (emptyQueue_costs .cancelled) (Op.costs_cons (Op.costs_each dropFollowOn_costs allMots)
    (Op.costs_cons (Op.costs_each withdraw_costs allMots) (Op.costs_cons (Op.costs_each restartMotion_costs allMots)
      (Op.costs_cons hd (Op.costs_cons hc
        (Op.costs_cons (Op.costs_each (fun i => setSoftFlag_costs i false) (List.finRange 4)) Op.costs_nil))))))
  exact h.mono (by simp [allMots])

theorem restartCommand_costs (c : Cmd) : Op.Costs (restartCommand c) 138 := fun s => by
  unfold restartCommand badArgument; repeat' split
  · have := answerCmd_costs c (.refused .badArgument) s; omega
  · have := answerCmd_costs c (.refused .notPermitted) s; omega
  · have := answerCmd_costs c (.refused .notReady) s; omega
  · exact (Op.costs_cons (answerCmd_costs c .taken) (Op.costs_cons warmRestart_costs Op.costs_nil)).mono (by omega) s

theorem refreshHeld_potential (n : NodeId) (t : Nat) (s : State) : (refreshHeld n t s).potential = s.potential := by
  have h : (foldState (refreshChannel n t) allMots s).potential = s.potential ∧
      (foldState (refreshChannel n t) allMots s).motionQueue = s.motionQueue :=
    foldState_keeps (P := fun u => u.potential = s.potential ∧ u.motionQueue = s.motionQueue)
      (fun m u hu => ⟨(potential_modMot_same u m _ rfl).trans hu.1, hu.2⟩) allMots s ⟨rfl, rfl⟩
  rw [← h.1]
  exact potential_congr rfl rfl (by simp [refreshHeld])

theorem runCommand_costs (c : Cmd) : Op.Costs (runCommand c) 138 := by
  unfold runCommand; split
  · exact (dimmerVerb_costs .set (fun d s => potential_of_offstage (setLevel_offstage d _ _ s)) c).mono (by omega)
  · exact (dimmerVerb_costs .nudge (fun d s => potential_of_offstage (setLevel_offstage d _ _ s)) c).mono (by omega)
  · exact (dimmerVerb_costs .freeze (fun d s => potential_of_unlit (freezeDimmer_unlit d s)) c).mono (by omega)
  · exact (motionVerb_costs .move (fun m s => motionCommand_costs m _ s) c).mono (by omega)
  · exact (motionVerb_costs .home (fun m => motionCommand_costs m _) c).mono (by omega)
  · refine (Op.costs_set fun s => ?_).mono (Nat.zero_le _)
    split
    · exact refreshHeld_potential _ _ s
    · rfl
  · exact (motionVerb_costs .halt (haltChannel_costs c) c).mono (by omega)
  · exact (flagCommand_costs c).mono (by omega)
  · exact (cancelCommand_costs c).mono (by omega)
  · exact restartCommand_costs c
  · exact (answerCmd_costs c _).mono (by omega)

theorem offerFrame_costs (f : TxFrame) : Op.Costs (offerFrame f) 1 := fun s => by
  unfold offerFrame; repeat' split
  all_goals simp [Act.weight]
  all_goals omega

/-! ## The whole -/

/-- Each piece of work leaves less to do than it took up. -/
theorem perform_costs (a : Act) (s : State) :
    workLeft (perform a s).2 (perform a s).1 < workLeft [a] s := by
  rw [workLeft_eq, workLeft_eq]
  simp only [workWeight_cons, workWeight_nil]
  cases a with
  | offer f => have := offerFrame_costs f s; simp only [perform, Act.weight]; omega
  | report b f => have := takeReport_costs b f s; simp only [perform, Act.weight]; omega
  | take m => have := takePending_costs m s; simp only [perform, Act.weight]; omega
  | siblings => have := siblingTrips_costs s; simp only [perform, Act.weight]; omega
  | latch => have := setLatch_costs s; simp only [perform, Act.weight]; omega
  | evalLocks m e =>
    have := Op.costs_cond (c := fun s => s.runningFails m e) (trip_costs m .interlock) Op.costs_skip s
    simp only [perform, evaluateLocks, Act.weight]; omega
  | contend m g l n => have := contendClaim_costs m g l n s; simp only [perform, Act.weight]; omega
  | inputRole i b => have := roleChange_costs i b s; simp only [perform, Act.weight]; omega
  | command c =>
    have := Op.costs_cond (c := State.active) (runCommand_costs c) (Op.costs_skip.mono (Nat.zero_le _)) s
    simp only [perform, takeUp, Act.weight]; omega

/-- With as much to run with as there is left to do, more makes no difference. -/
theorem runActs_enough (n k : Nat) (acts : List Act) (s : State) (hn : workLeft acts s ≤ n) (hk : workLeft acts s ≤ k) :
    runActs n acts s = runActs k acts s ∧ actsRaise n acts s = actsRaise k acts s := by
  induction n generalizing k acts s with
  | zero =>
    cases acts with
    | nil => cases k <;> simp [actsRaise]
    | cons a rest =>
      have h := perform_costs a s
      rw [workLeft_eq, workLeft_eq] at h
      rw [workLeft_eq] at hn
      simp only [workWeight_cons, workWeight_nil] at h hn
      omega
  | succ n ih =>
    cases acts with
    | nil => cases k <;> simp [actsRaise]
    | cons a rest =>
      have hlt := perform_costs a s
      rw [workLeft_eq, workLeft_eq] at hlt
      rw [workLeft_eq] at hn hk
      simp only [workWeight_cons, workWeight_nil] at hlt hn hk
      cases k with
      | zero => omega
      | succ k =>
        have := ih k ((perform a s).2 ++ rest) (perform a s).1
          (by rw [workLeft_eq, workWeight_append]; omega) (by rw [workLeft_eq, workWeight_append]; omega)
        simp only [runActs, actsRaise, this.1, this.2, and_self]

/-- The consequences, one by one: the first piece of work, then what it leads to, then the rest. -/
theorem settle_both (s : State) (a : Act) (rest : List Act) :
    settle (s, a :: rest) = settle ((perform a s).1, (perform a s).2 ++ rest) ∧
      settleRaises (s, a :: rest) =
        (s.raises (perform a s).1 || settleRaises ((perform a s).1, (perform a s).2 ++ rest)) := by
  have hlt := perform_costs a s
  rw [workLeft_eq, workLeft_eq] at hlt
  simp only [workWeight_cons, workWeight_nil] at hlt
  unfold settle settleRaises
  dsimp only
  have hw : workLeft (a :: rest) s = (workLeft (a :: rest) s - 1) + 1 := by
    rw [workLeft_eq, workWeight_cons]; omega
  rw [hw]
  have := runActs_enough (workLeft (a :: rest) s - 1) (workLeft ((perform a s).2 ++ rest) (perform a s).1)
    ((perform a s).2 ++ rest) (perform a s).1
    (by rw [workLeft_eq, workLeft_eq, workWeight_append, workWeight_cons]; omega) (Nat.le_refl _)
  simp only [runActs, actsRaise, this.1, this.2, and_self]

theorem settle_cons (s : State) (a : Act) (rest : List Act) :
    settle (s, a :: rest) = settle ((perform a s).1, (perform a s).2 ++ rest) := (settle_both s a rest).1

/-- An early cause arises in the first piece of work, or after it. -/
theorem settleRaises_cons (s : State) (a : Act) (rest : List Act) :
    settleRaises (s, a :: rest) =
      (s.raises (perform a s).1 || settleRaises ((perform a s).1, (perform a s).2 ++ rest)) := (settle_both s a rest).2

/-- The induction over the consequences of an event. -/
theorem settle_induct {P : State → List Act → Prop}
    (h : ∀ s a rest, P s (a :: rest) → P (perform a s).1 ((perform a s).2 ++ rest)) :
    ∀ (acts : List Act) (s : State), P s acts → P (settle (s, acts)) [] := by
  intro acts s
  generalize hn : workLeft acts s = n
  induction n using Nat.strongRecOn generalizing acts s with
  | ind n ih =>
    intro hp
    cases acts with
    | nil => simpa using hp
    | cons a rest =>
      rw [settle_cons]
      have hlt := perform_costs a s
      rw [workLeft_eq, workLeft_eq] at hlt
      simp only [workWeight_cons, workWeight_nil] at hlt
      refine ih _ ?_ _ _ rfl (h s a rest hp)
      rw [← hn, workLeft_eq, workLeft_eq, workWeight_append, workWeight_cons]; omega

/-- The consequences of two lists of work, one after the other. -/
theorem settle_append (s : State) (l k : List Act) :
    settle (s, l ++ k) = settle (settle (s, l), k) ∧
      settleRaises (s, l ++ k) = (settleRaises (s, l) || settleRaises (settle (s, l), k)) := by
  generalize hn : workLeft l s = n
  induction n using Nat.strongRecOn generalizing l s with
  | ind n ih =>
    cases l with
    | nil => simp
    | cons a rest =>
      rw [List.cons_append, settle_cons, settle_cons, settleRaises_cons, settleRaises_cons, ← List.append_assoc,
        Bool.or_assoc]
      have hlt := perform_costs a s
      rw [workLeft_eq, workLeft_eq] at hlt
      simp only [workWeight_cons, workWeight_nil] at hlt
      have := ih (workLeft ((perform a s).2 ++ rest) (perform a s).1)
        (by rw [← hn, workLeft_eq, workLeft_eq, workWeight_append, workWeight_cons]; omega) _ _ rfl
      rw [this.1, this.2]
      exact ⟨rfl, rfl⟩

/-- Where the work changes nothing that the own STATUS shows, piece by piece, it raises no early cause. -/
theorem settleRaises_quiet {Q : Act → Prop} (c : StatusContents)
    (h : ∀ a s, Q a → s.contents = c → (perform a s).1.contents = c ∧ ∀ b ∈ (perform a s).2, Q b)
    (acts : List Act) (s : State) (ha : ∀ a ∈ acts, Q a) (hs : s.contents = c) : settleRaises (s, acts) = false := by
  generalize hn : workLeft acts s = n
  induction n using Nat.strongRecOn generalizing acts s with
  | ind n ih =>
    cases acts with
    | nil => simp
    | cons a rest =>
      obtain ⟨hc, hw⟩ := h a s (ha a (List.mem_cons_self ..)) hs
      have hlt := perform_costs a s
      rw [workLeft_eq, workLeft_eq] at hlt
      simp only [workWeight_cons, workWeight_nil] at hlt
      rw [settleRaises_cons, ih (workLeft ((perform a s).2 ++ rest) (perform a s).1)
        (by rw [← hn, workLeft_eq, workLeft_eq, workWeight_append, workWeight_cons]; omega) _ _ ?_ hc rfl]
      · simp [State.raises, hc, hs]
      · intro b hb
        rcases List.mem_append.mp hb with hb | hb
        · exact hw b hb
        · exact ha b (List.mem_cons_of_mem _ hb)

end Sys2Proof.Machine
end

