-- ==== Sys2Proof/Tests/Slice0.lean ====
section
/-! SUPPORT. Tests on small states: ill-formed commands refused, worked examples of the manual, and for each statement with
hypotheses a state and operands that meet them (witness_<statement>, clause by clause). -/

namespace Sys2Proof.Tests

set_option Elab.async false
set_option synthInstance.maxSize 5000
set_option synthInstance.maxHeartbeats 400000

open Sys2Proof Sys2Proof.Machine

/-! ## Frames -/

/-- A frame with its check. -/
def frame (level kind source : Nat) (p : List Byte) : Frame :=
  let f : Frame := ⟨BitVec.ofNat 5 level, BitVec.ofNat 4 kind, BitVec.ofNat 5 source, BitVec.ofNat 5 p.length, p, 0, true⟩
  { f with check := frameCheck f }

/-- A COMMAND frame for node 5 with tag 3, answer wanted. -/
def order (level source index kind verb : Nat) (args : List Byte) : Frame :=
  frame level 3 source ([5, 0x13, byteOf (index + 16 * kind), byteOf verb] ++ args)

/-- The worst queued frames a test fills a queue with. -/
def filler (level : Nat) : TxFrame := ⟨level, .answer 9 1 .taken, 0, false⟩

/-! ## A node -/

/-- Node 5: two dimmers, D0 IMMEDIATE and D1 CUED; two motion channels, M0 with a pulse input and M1 with a hold input; one
interlock entry, M0 OUT on flag 3 of node 2. -/
def cfg : NodeConfig :=
  { NodeConfig.blank with
    ownId := 5
    safety := #v[1, 0, 0, 0]
    segs := Vector.replicate 4 ⟨2400, 100, 300⟩
    dims := (NodeConfig.blank.dims.set 0 ⟨true, 0, 80, 205, 1, 1024, false, 2048⟩).set 1 ⟨true, 0, 120, 0, 2, 0, true, 0⟩
    mots := (NodeConfig.blank.mots.set 0
        { configured := true, segment := 0, claimAmount := 100, claimHold := 30, inrushTrip := 300, runTrip := 200,
          scale := 1024, deadTime := 300, stallTime := 500, fullSpeed := 3600, slowSpeed := 1200, rampUp := 50,
          rampDown := 30, travel := 1000, stowBand := 10, deployBand := 10, slowBand := 100, localHold := false,
          siblingTrip := true, edge := .rising }).set 1
        { configured := true, segment := 0, claimAmount := 100, claimHold := 30, inrushTrip := 300, runTrip := 200,
          scale := 1024, deadTime := 300, stallTime := 0, fullSpeed := 3600, slowSpeed := 1200, rampUp := 50,
          rampDown := 30, travel := 1000, stowBand := 10, deployBand := 10, slowBand := 100, localHold := true,
          siblingTrip := true, edge := .rising }
    roles := #v[.stowEnd 0, .deployEnd 0, .pulse 0, .key, .hold 1, .guard 0, .flag, .estop, .none, .key, .none, .none,
      .none, .none, .none, .none]
    locks := NodeConfig.blank.locks.set 0 ⟨0, true, false, 2, .flag 3 true⟩
    binds := (NodeConfig.blank.binds.set 0 ⟨3, 9, 1, 1, 1, 17, .holdToRun, true, [0, 0, 0, 0, 0, 0]⟩).set 1
      ⟨9, 5, 0, 2, 1, 17, .latched, false, [16, 1, 0, 0, 0, 0]⟩ }

/-- The postures and the segment records derived again from the rest. -/
def fit (s : State) : State :=
  foldState recompute allSegs { s with mots := Vector.ofFn (fun m => { s.mot m with posture := s.derivePosture m }) }

/-- The node in READY at second 10, at rest, with node 2 FRESH and its flag 3 set. -/
def ready : State :=
  fit { State.reset with
    now := 10000000, mode := .ready, cfg := cfg, link := { Link.blank with joined := true }
    peers := (State.reset.peers.set 5 .own).set 2 ⟨.fresh, some 1, .running 9900000, { StatusContents.blank with flags := 8 }⟩
    pub := { Publisher.blank with active := true, period := .running 9900000, spacing := .running 9900000 }
    fadeTimer := .running 9995000, sampleTimer := .running 9999500, inputTimer := .running 9000000 }

/-- The node in LISTEN. -/
def listening : State := { ready with mode := .listen, listenTimer := .running 9000000 }

/-- A command held by the node. -/
def held (level tag : Nat) (mode : HoldMode) : MotionCmd := ⟨1, tag, level, .move, mode, .outward, none, .full, true⟩

/-- The node with channel m in a state and a direction, held at level 20, its claim as the state has it. -/
def moving (s : State) (m : MotIx) (st : MotionState) (d : Dir) : State :=
  fit ((s.modMot m (fun c =>
    { c with
      state := st, direction := some d, holder := if st.isHeld then some ⟨held 20 2 .holdToRun, some 10100000⟩ else none
      outOn := st.isEnergized && d == .outward, inOn := st.isEnergized && d == .inward
      stallTimer := if st.isDriven then .running 9700000 else .zero
      speedFade := if st = .stopping then some ⟨900, 0, 30, 10⟩ else none
      deadTimer := if st = .settling then .running 9900000 else .zero
      tripReason := if st = .tripped then some .stop else none })).modClaim m (fun c =>
    { c with
      state := match st with | .claiming => .opened | .starting => .held | _ => .none
      segment := 0, amount := 100, hold := 30, level := 20, settle := .running 9970000, sendMoment := some 9980000
      inFlight := 0 }))

/-- An input that has stood active at its pin for long. -/
def pinned (i : InIx) (s : State) : State := fit { s.modInput i (fun _ => ⟨true, 0, false⟩) with pins := s.pins.set i true }

/-- An input whose pin has differed from its filtered state for 20 samples: the change is accepted at the next one, 1 ms on. -/
def turning (i : InIx) (s : State) : State :=
  { s.modInput i (fun r => { r with runCount := 20 }) with pins := s.pins.set i (!(s.input i).filtered) }

/-- The emergency stop input about to be accepted: in 1 ms the stop latch is set. -/
def jolted (s : State) : State := turning 7 s

/-- A key of the own node about to be accepted, with a binding to the own node. -/
def pressing (kind verb level : Nat) (args : List Byte) (s : State) : State :=
  turning 9 { s with cfg := { s.cfg with
    binds := s.cfg.binds.set 1 ⟨9, 5, 0, kind, verb, level, .latched, false, args⟩, safety := #v[1, 5, 0, 0] } }

/-- The node of the tests obeys every law. -/
theorem sound_ready : ready.Sound := by
  decide +kernel

/-! ## Ill-formed commands are refused (WellFormed) -/

theorem test_ill_image_length : (Instr.imageReadEnd [] (Vector.replicate 16 false) (Vector.replicate 4 0)).wellFormed = false := by decide
theorem test_ill_status_kind : (Instr.statusArrival (frame 24 2 2 [0, 0, 0, 0])).wellFormed = false := by decide
theorem test_ill_claim_kind : (Instr.claimArrival (frame 0 0 2 [0])).wellFormed = false := by decide
theorem test_ill_answer_kind : (Instr.answerArrival (frame 0 0 2 [0])).wellFormed = false := by decide
theorem test_ill_scene_kind : (Instr.sceneArrival (frame 0 0 2 [0])).wellFormed = false := by decide
theorem test_ill_cue_kind : (Instr.cueArrival (frame 0 0 2 [0])).wellFormed = false := by decide
theorem test_ill_stop_kind : (Instr.stopArrival (frame 0 1 2 [])).wellFormed = false := by decide
theorem test_ill_release_kind : (Instr.releaseArrival (frame 0 0 2 [0])).wellFormed = false := by decide
theorem test_ill_release_length : (Instr.releaseArrival (frame 0 1 2 (List.replicate 32 0))).wellFormed = false := by decide
theorem test_ill_verbs : ∀ v ∈ [Verb.set, .nudge, .freeze, .move, .home, .hold, .halt, .flag, .cancel, .restart],
    (v.row (order 20 1 0 3 1 [])).wellFormed = false := by decide
theorem test_ill_unknown_verb : (Instr.unknownVerbCommand (order 20 1 0 1 4 [])).wellFormed = false := by decide
theorem test_ill_peers : (Instr.peerLate 0).wellFormed = false ∧ (Instr.peerLost 0).wellFormed = false := by decide
theorem test_ill_claimant : (Instr.foreignClaimExpiry 0 0).wellFormed = false := by decide
theorem test_ill_origin : (Instr.pendingDeadlineExpiry 0 0).wellFormed = false := by decide
theorem test_ill_scene : (Instr.sceneAgeTimerExpiry 0).wellFormed = false := by decide
theorem test_well_formed : (Instr.halt (order 20 1 0 1 4 [])).wellFormed = true ∧ (Instr.peerLate 2).wellFormed = true := by decide

/-! ## Worked examples of the manual -/

/-- 3.10: D(2048) of a rating of 80 is 41, D(2047) and D(2048) of 300 are 150 and 151. -/
theorem test_draws : dimmerDraw 80 2048 = 41 ∧ dimmerDraw 300 2047 = 150 ∧ dimmerDraw 300 2048 = 151 ∧ dimmerDraw 300 1035 = 76 := by decide
/-- Table 3-3: a sample of 512 at Scale 4000. -/
theorem test_conversion : convertReading 4000 512 = 2000 ∧ meanDraw (pushSample (Vector.replicate 16 0) 2000) = 125 := by decide
/-- Table 8-3: the samples of M2. -/
theorem test_samples : convertReading 4000 800 = 3125 ∧ convertReading 4000 760 = 2968 ∧ convertReading 4000 790 = 3085 := by decide
/-- 5.9 and 3.12: fades that rise, fall and end. -/
theorem test_fades : (⟨500, 3500, 100, 0⟩ : Fade).valueAt 40 = 1700 ∧ (⟨1700, 700, 20, 0⟩ : Fade).valueAt 7 = 1350 ∧
    (⟨2047, 1024, 100, 0⟩ : Fade).valueAt 99 = 1035 ∧ (⟨0, 300, 30, 0⟩ : Fade).valueAt 1 = 10 := by decide
/-- Table 1-1: level before kind. -/
theorem test_contention : (⟨20, .claim 0 0 0 0, 0, false⟩ : TxFrame).notWorse ⟨20, .command [], 0, false⟩ = true ∧
    (⟨24, .status 0 .blank, 0, false⟩ : TxFrame).notWorse ⟨20, .command [], 0, false⟩ = false := by decide
/-- R180: a spacer after six released bits, and its removal. -/
theorem test_spacers : insertSpacers 0 [true, true, true, true, true, true, true] = [true, true, true, true, true, true, false, true] ∧
    removeSpacers 0 [true, true, true, true, true, true, false, true] = some [true, true, true, true, true, true, true] ∧
    removeSpacers 0 [true, true, true, true, true, true, true] = none := by decide
/-- R106: a raw level 4 of an ordinary origin becomes 20; a safety origin keeps it. -/
theorem test_levels : cfg.adjust 30 4 = 20 ∧ cfg.adjust 1 4 = 4 ∧ cfg.adjust 30 16 = 16 ∧ cfg.isOverride 1 7 = true ∧ cfg.isOverride 1 8 = false := by decide
/-- Table 8-2: the fourth sample of a PULSE input is accepted. -/
theorem test_pulse_filter : let s := { ready with pins := ready.pins.set 2 true }
    (((s.modInput 2 (fun r => { r with runCount := 3 })).clockTo 10000250).input 2) = ⟨false, 0, true⟩ ∧
    (((s.modInput 2 (fun r => { r with runCount := 2 })).clockTo 10000250).input 2) = ⟨false, 3, false⟩ ∧
    (((s.modInput 2 (fun r => { r with runCount := 3 })).clockTo 10000249).input 2) = ⟨false, 3, false⟩ := by decide +kernel
/-- R127: the 21st sample of any other input is accepted, 1 ms apart, however far the clock is brought at once. -/
theorem test_other_filter : let s := { ready with pins := ready.pins.set 0 true }
    ((s.clockTo 10020999).input 0) = ⟨false, 20, false⟩ ∧ ((s.clockTo 10021000).input 0) = ⟨false, 0, true⟩ ∧
    ((s.passTo 10021000).input 0).filtered = false ∧ ((s.passTo 10021001).input 0).filtered = true := by decide +kernel
/-- R78: on for 2048 of 4096, centred in the period of 500 microseconds; off throughout at 0 and on throughout at 4095. -/
theorem test_centring : pwmOn 2048 124 = false ∧ pwmOn 2048 125 = true ∧ pwmOn 2048 374 = true ∧ pwmOn 2048 375 = false ∧
    (∀ t ∈ [0, 250, 499], pwmOn 0 t = false ∧ pwmOn 4095 t = true) := by decide
/-- R180, R181: byte 0 of a MOVE keeps bits 0, 2 and 3 of the stored byte and takes bit 1 from the binding; that of a HOME is its bit 1. -/
theorem test_mode_byte : (⟨3, 9, 1, 1, 1, 17, .holdToRun, true, [0xF5, 1, 2, 3, 4, 5]⟩ : Binding).sentArgs = [7, 1, 2, 3] ∧
    (⟨3, 9, 1, 1, 2, 17, .latched, true, [0xFF, 1, 2, 3, 4, 5]⟩ : Binding).sentArgs = [0] := by decide

/-- The state after a command. -/
def after (c : Instr) (s : State) : State :=
  match exec c s with
  | .next t => t
  | .fault _ => s
  | .refused _ => s

/-- One dimmer channel configured and standing as given, on S1 with this limit and a margin of 100. -/
def lamp (d : DimIx) (c : DimCfg) (limit : Nat) (level : Nat) (f : Option Fade) (booked : Nat) : State :=
  fit ({ ready with cfg := { cfg with dims := cfg.dims.set d c, segs := cfg.segs.set 1 ⟨limit, 100, 300⟩ } }.modDim d (fun r =>
    { r with applied := level, waiting := level, fade := f, booked := booked }))

/-- D4 of 5.9 and D6 of 5.10. -/
def downlight : DimCfg := ⟨true, 1, 120, 0, 1, 1500, false, 0⟩
def screenWash : DimCfg := ⟨true, 1, 200, 300, 0, 0, true, 0⟩

/-- Table 5-8, SET taken: the fade, the booking, and the available amount 412. -/
theorem test_set : let t := after (.set (order 20 9 4 0 1 [0xAC, 0x0D, 100, 0])) (lamp 4 downlight 615 500 none 15)
    (t.dim 4).fade = some ⟨500, 3500, 100, 0⟩ ∧ (t.dim 4).booked = 103 ∧ t.available 1 = 412 := by decide +kernel
/-- Table 5-8, NUDGE taken: from the applied level, with the available amount 465. -/
theorem test_nudge : let t := after (.nudge (order 20 9 4 0 2 [0x18, 0xFC, 20, 0])) (lamp 4 downlight 615 1700 (some ⟨500, 3500, 100, 40⟩) 103)
    (t.dim 4).fade = some ⟨1700, 700, 20, 0⟩ ∧ (t.dim 4).booked = 50 ∧ t.available 1 = 465 := by decide +kernel
/-- Table 5-8, FREEZE at tick 7. -/
theorem test_freeze : let t := after (.freeze (order 20 9 4 0 3 [])) (lamp 4 downlight 615 1350 (some ⟨1700, 700, 20, 7⟩) 40)
    (t.dim 4).fade = none ∧ (t.dim 4).applied = 1350 ∧ (t.dim 4).booked = 40 := by decide +kernel
/-- Table 5-9: SET 250 waits in the slot, and CUE 0 begins a fade to MinOn. -/
theorem test_cue : let s := after (.set (order 20 9 6 0 1 [250, 0, 30, 0])) (lamp 6 screenWash 2400 0 none 0)
    (s.dim 6).slot = some ⟨0, 250, 30⟩ ∧ (s.dim 6).booked = 0 ∧
    (after (.cueArrival (frame 20 5 2 [0])) s).dim 6 = { s.dim 6 with slot := none, fade := some ⟨0, 300, 30, 0⟩, booked := 15 } := by
  decide +kernel
/-- 3.10: D2 with a room of 150 is clamped to 2047, and stays dark with a MinOn of 2500. -/
theorem test_clamp : (lamp 2 ⟨true, 1, 300, 200, 0, 0, false, 0⟩ 250 0 none 0).raiseClamp 2 4095 = 2047 ∧
    (lamp 2 ⟨true, 1, 300, 2500, 0, 0, false, 0⟩ 250 0 none 0).raiseClamp 2 4095 = 0 := by decide +kernel
/-- 3.11: the room counts a fading channel at its present level. -/
theorem test_clamp_fading :
    (lamp 2 ⟨true, 1, 100, 0, 0, 0, false, 0⟩ 184 2000 (some ⟨1000, 3000, 100, 50⟩) 74).raiseClamp 2 3500 = 3439 := by decide +kernel
/-- Table 8-3 at 3 ms: the second sample over the trip current in force trips, and the count returns to 0. -/
theorem test_overcurrent : let s := (moving ready 0 .running .outward).modMot 0 (fun c => { c with overCount := 1 })
    let t := after (.currentSample #v[700, 0, 0, 0]) { s with cfg := { cfg with mots := cfg.mots.set 0 { s.motCfg 0 with scale := 4000, runTrip := 2200 } } }
    (t.mot 0).tripReason = some .overcurrent ∧ (t.mot 0).overCount = 0 ∧ (t.mot 0).outOn = false := by decide +kernel
/-- R145: a FULL holder that comes into the slow band fades to Slow Speed over Ramp Down, though the channel was still ramping up. -/
theorem test_slow_band_on_preemption : let s := (moving ready 0 .running .outward).modMot 0 (fun c =>
      { c with referenced := true, position := 950, speed := 576, speedFade := some ⟨0, 3600, 50, 8⟩ })
    let t := after (.move (order 8 1 0 1 1 [8, 0xD4, 3, 0])) s
    (t.mot 0).speedFade = some ⟨576, 1200, 30, 0⟩ ∧ (t.mot 0).slow = true := by decide +kernel
/-- R81, R147: the last step of a stopping fade takes its channel to SETTLING with the outputs off and the dead time from 0. -/
theorem test_stop_at_tick : let s := (moving ready 0 .stopping .outward).modMot 0 (fun c => { c with speed := 30, speedFade := some ⟨900, 0, 30, 29⟩ })
    let t := after .fadeTick s
    (t.mot 0).state = .settling ∧ (t.mot 0).outOn = false ∧ (t.mot 0).deadTimer = .running 10005000 := by decide +kernel
/-- The table gives no row any bits. -/
theorem test_no_bits : decodeTableWord 8 0 = none := by decide

/-! ## Witnesses: hypotheses met -/

/-- A queue of one frame that is on the line, after so many failed attempts. -/
def sending (body : TxBody) (failed : Nat) : State :=
  { ready with link := { ready.link with queue := [⟨20, body, failed, true⟩] } }

/-- A state with a CLAIM of M0 on the line, twice failed, one of so many in flight, the claim not yet sent. -/
def claimOut (amount inFlight : Nat) (s : State) : State :=
  let t := s.modClaim 0 (fun c => { c with inFlight := inFlight, sendMoment := none })
  { t with link := { t.link with queue := [⟨20, .claim 0 0 amount 30, 2, true⟩] ++ List.replicate (inFlight - 1) ⟨20, .claim 0 0 0 30, 0, false⟩ } }

/-- The slot's STATUS on the line, after so many failed attempts. -/
def publishing (failed : Nat) : State :=
  { ready with link := { ready.link with slot := some ⟨24, .status 1 .blank, failed, true⟩ } }

/-- M0 in CLAIMING with its claim OPEN, and with its claim WAITING. -/
def claiming : State := moving ready 0 .claiming .inward
def claimWaiting : State := claiming.modClaim 0 (fun c => { c with state := .waiting, settle := .zero, sendMoment := none })

/-- A full transmit queue. -/
def crowded (level : Nat) : State := { ready with link := { ready.link with queue := List.replicate 8 (filler level) } }

/-- Two motion channels that move, M0 OUT and M1 IN. -/
def busy : State := moving (moving ready 0 .running .outward) 1 .starting .inward

theorem witness_StepRunsTheFrontCommand : ({ ready with pending := [.lineIdle] } : State).pending = .lineIdle :: [] := by decide +kernel

theorem witness_EmptyQueueIdles :
    (ready.pending = [] ∧ (∀ p ∈ ready.dueCommands, ready.now < p.1) ∧ ready.built = true ∧ ready.inputTimer = .running 9000000 ∧
      ready.cfg.roles[2] = .pulse 0 ∧ (ready.input 2).runCount < 4 ∧ (∀ j : InIx, ∀ z ∈ ready.acceptDue j, 10000500 ≤ z)) ∧
    (turning 7 ready).pins[7] ≠ ((turning 7 ready).input 7).filtered ∧ ((turning 7 ready).input 7).runCount < 21 ∧
    (let s := { ready.modInput 2 (fun r => { r with accepted := true }) with pins := ready.pins.set 2 true }
     s.FilterLaw ∧ (s.input 2).accepted = true ∧ ∃ p ∈ s.dueCommands, p.1 ≤ s.now) ∧
    (∃ p ∈ ({ ready with now := 10000500 } : State).dueCommands, p.1 ≤ 10000500) ∧
    ready.FilterLaw ∧ ((turning 7 ready).FilterLaw ∧ 10001000 ∈ (turning 7 ready).acceptDue 7 ∧ ∀ j : InIx, j ≠ 7 → ∀ z ∈ (turning 7 ready).acceptDue j, 10001000 < z) := by decide +kernel

/-- For every statement EveryStepKeeps…: a sound state and the state its step answers. -/
theorem witness_EveryStepKeepsItsLaw : ∃ t, ({ busy with pending := [.stopArrival (frame 4 0 2 [0])] } : State).Sound ∧
    step { busy with pending := [.stopArrival (frame 4 0 2 [0])] } = .next t ∧ t.stopLatch = true := by
  refine ⟨_, ?_, rfl, ?_⟩
  · decide +kernel
  · decide +kernel

theorem witness_ColdStartTurnsEverythingOff : ({ ready with resetLow := true } : State).resetLow = true := by decide +kernel

/-- The image of node 5 with everything else 0: its check word makes the sum of its words 0. -/
def smallImage : List Byte := [1, 5] ++ List.replicate 448 0 ++ [0xFF, 0xFA]

theorem witness_FailedImageSilencesTheNode : State.reset.mode = .loading ∧ State.reset.resetLow = false ∧
    byteAt (imageBytes []) 0 ≠ 1 ∧ imageSum (imageBytes (smallImage.set 2 1)) ≠ 0 ∧
    ¬ (1 ≤ byteAt (imageBytes (smallImage.set 1 32)) 1 ∧ byteAt (imageBytes (smallImage.set 1 32)) 1 ≤ 31) := by decide +kernel

theorem witness_ValidImageEntersListen : State.reset.mode = .loading ∧ State.reset.resetLow = false ∧
    imageSum (imageBytes smallImage) = 0 ∧ byteAt (imageBytes smallImage) 0 = 1 ∧ 1 ≤ byteAt (imageBytes smallImage) 1 ∧
    byteAt (imageBytes smallImage) 1 ≤ 31 := by decide +kernel

theorem witness_ListenEndsInReady : listening.Sound ∧ listening.mode = .listen ∧ listening.listenTimer = .running 9000000 ∧
    (listening.dimCfg 0).configured = true ∧ 0 < (listening.dimCfg 0).startLevel ∧ (listening.dimCfg 1).startLevel = 0 ∧
    (listening.dimCfg 2).configured = false := by decide +kernel

theorem witness_LineIdleChoosesTheBetterFrame :
    ready.built = true ∧ ready.active = true ∧ ready.link.busy = false ∧ (sending (.answer 9 1 .taken) 0).built = true ∧
      (sending (.answer 9 1 .taken) 0).link.busy = true := by decide +kernel

theorem witness_ArbitrationLossKeepsTheFrame :
    ((sending (.answer 9 1 .taken) 0).LinkLaw ∧ (sending (.answer 9 1 .taken) 0).link.busy = true) ∧
    ((publishing 0).LinkLaw ∧ (publishing 0).link.busy = true) ∧
    (let s := { publishing 0 with link := { (publishing 0).link with slotNext := some ⟨24, .status 2 .blank, 0, false⟩ } }
     s.LinkLaw ∧ s.link.busy = true) := by decide +kernel

theorem witness_TransmitErrorCountsTheAttempt :
    ((sending (.answer 9 1 .taken) 1).LinkLaw ∧ (sending (.answer 9 1 .taken) 1).link.queue.find? (fun x => x.onLine) = some ⟨20, .answer 9 1 .taken, 1, true⟩) ∧
    ((sending (.answer 9 1 .taken) 2).LinkLaw ∧ (sending (.answer 9 1 .taken) 2).link.queue.find? (fun x => x.onLine) = some ⟨20, .answer 9 1 .taken, 2, true⟩) ∧
    ((publishing 1).LinkLaw ∧ (publishing 1).link.slot = some ⟨24, .status 1 .blank, 1, true⟩) ∧
    ((publishing 2).LinkLaw ∧ (publishing 2).link.slot = some ⟨24, .status 1 .blank, 2, true⟩) ∧
    (let s := claimOut 100 1 claiming
     s.Sound ∧ s.link.queue.find? (fun x => x.onLine) = some ⟨20, .claim 0 0 100 30, 2, true⟩ ∧ (s.claim 0).state = .opened ∧
       (s.claim 0).override = false ∧ (s.claim 0).sendMoment = none ∧ s.motionQueue = [] ∧ s.postureNamed 0 = false) ∧
    (let s := claimOut 100 1 (moving ready 0 .starting .outward)
     s.Sound ∧ (s.claim 0).state = .held ∧ (s.claim 0).sendMoment = none) ∧
    (let s := (claimOut 100 1 claiming).modClaim 0 (fun c => { c with override := true })
     s.Sound ∧ (s.claim 0).state = .opened ∧ (s.claim 0).override = true) ∧
    ((claimOut 0 1 ready).Sound ∧ ((claimOut 0 1 ready).claim 0).state = .none ∧ (claimOut 100 1 ready).Sound) ∧
    ((claimOut 100 2 claimWaiting).Sound ∧ ((claimOut 100 2 claimWaiting).claim 0).state = .waiting ∧
      ((claimOut 100 2 claimWaiting).claim 0).inFlight = 2) ∧
    ((claimOut 0 1 claimWaiting).Sound ∧ ((claimOut 0 1 claimWaiting).claim 0).inFlight = 1) := by decide +kernel

theorem witness_FrameSentLeavesItsPlace :
    ((sending (.answer 9 1 .taken) 2).LinkLaw ∧ (publishing 2).LinkLaw ∧ (sending (.claim 0 0 100 30) 0).LinkLaw) ∧
    (sending (.claim 0 0 100 30) 0).link.queue.find? (fun x => x.onLine) = some ⟨20, .claim 0 0 100 30, 0, true⟩ ∧
    (let s := (sending (.claim 0 0 100 30) 0).modClaim 0 (fun c => { c with state := .opened, inFlight := 1 })
     s.LinkLaw ∧ (s.claim 0).state = .opened ∧ (s.claim 0).sendMoment = none ∧ (s.claim 0).inFlight ≤ 2) ∧
    (let s := (sending (.claim 0 0 0 30) 0).modClaim 0 (fun c => { c with state := .waiting, inFlight := 2 })
     s.LinkLaw ∧ (s.claim 0).inFlight = 2) ∧
    (let s := (sending (.claim 0 0 0 30) 0).modClaim 0 (fun c => { c with state := .waiting, inFlight := 1 })
     s.LinkLaw ∧ s.active = true ∧ (s.claim 0).state = .waiting ∧ (s.claim 0).inFlight = 1) ∧
    ((claimOut 100 1 ready).LinkLaw ∧ ((claimOut 100 1 ready).claim 0).state = .none) ∧
    ((claimOut 100 2 claimWaiting).LinkLaw ∧ ((claimOut 100 2 claimWaiting).claim 0).state = .waiting) := by decide +kernel

theorem witness_OfferedFrameTakesItsPlace :
    (ready.active = true ∧ ready.LinkLaw ∧ ready.link.queue.length < 8) ∧
    ((crowded 20).active = true ∧ (crowded 20).LinkLaw ∧ (crowded 20).link.queue.length = 8 ∧
      ((crowded 20).link.queue.filter (fun x => !x.onLine)).getLast? = some (filler 20)) ∧
    (filler 20).notWorse (filler 20) = true ∧ (filler 20).notWorse (filler 19) = false := by decide +kernel

/-- The node after an id clash. -/
def clashed : State := after (.cueArrival (frame 20 5 5 [1])) busy

theorem witness_OwnIdFramesClashAndOthersPassTests :
    (let s : State := { State.reset with mode := .silent, faultOut := true }
     s.Sound ∧ s.receives = false) ∧
    (let f := frame 24 7 2 (List.replicate 15 0)
     Instr.cueArrival f ∈ Kind.cue.rows f ∧ frameSound f = true ∧ f.kind.toNat ≠ Kind.cue.code) ∧
    (clashed.Sound ∧ clashed.mode = .silent ∧ clashed.receives = true ∧ clashed.link.clashed = true ∧ Kind.cue ≠ .status ∧
      frameSource (frame 20 5 2 [1]) ≠ clashed.cfg.ownId ∧ frameSource (frame 20 5 5 [1]) = clashed.cfg.ownId) ∧
    (Instr.cueArrival (frame 20 5 5 [1]) ∈ Kind.cue.rows (frame 20 5 5 [1]) ∧ busy.Sound ∧ busy.receives = true ∧
      frameSound (frame 20 5 5 [1]) = true ∧ (frame 20 5 5 [1]).kind.toNat = Kind.cue.code ∧
      frameSource (frame 20 5 5 [1]) = busy.cfg.ownId ∧ busy.link.clashed = false) ∧
    (frameSound (frame 20 5 0 [1]) = false ∧ frameSound { frame 20 5 2 [1] with check := 0 } = false ∧
      frameSound (frame 20 9 2 [1]) = false ∧ frameSound (frame 20 5 2 [1, 2]) = false) := by decide +kernel

/-- A STATUS of node 2: sequence, mode bits, a draw of 65535 and a posture code 9. -/
def news (seq bits : Byte) : Frame := frame 24 7 2 [seq, bits, 0xFF, 0xFF, 0, 0, 0, 0, 0, 0, 9, 0, 8, 0, 0]

theorem witness_AcceptedStatusUpdatesItsEntry :
    (ready.Hears .status (news 1 1) ∧ (ready.peer 2).freshness ≠ .absent ∧ (ready.peer 2).seq = some (byteAt (news 1 1).payload 0)) ∧
    (busy.Hears .status (news 2 5) ∧ (busy.peer 2).seq ≠ some (byteAt (news 2 5).payload 0)) ∧
    (ready.Hears .status (news 2 1) ∧ ready.AtRest ∧ (byteAt (news 2 1).payload 1).testBit 2 = false) ∧
    (¬ busy.StoppedBy (after (.statusArrival (news 2 1)) busy) 2 0 ∧ (busy.mot 0).state.isMoving = true) := by decide +kernel

/-- A STATUS of node 2 with flag 3 clear fails M0's interlock entry, in RUNNING and in CLAIMING. -/
theorem witness_AcceptedStatusUpdatesItsEntry_interlock :
    let f := frame 24 7 2 [2, 1, 0, 0, 0, 0, 0, 0, 0, 0, 9, 0, 0, 0, 0]
    (let s := moving ready 0 .running .outward
     s.Hears .status f ∧ (s.mot 0).state.isMoving = true ∧ s.StoppedBy (after (.statusArrival f) s) 2 0 ∧
       ∀ k : MotIx, k ≠ 0 → (s.mot k).state.isMoving = false) ∧
    (let s := moving ready 0 .claiming .outward
     s.Hears .status f ∧ s.StoppedBy (after (.statusArrival f) s) 2 0) ∧
    (busy.Hears .status f ∧ (busy.mot 0).state.isMoving = true ∧ busy.StoppedBy (after (.statusArrival f) busy) 2 0 ∧
      busy.MotionLaw ∧ busy.HasRoom 4) := by decide +kernel

theorem witness_SilentPeerGoesLateThenLost :
    ((ready.peer 2).since = .running 9900000 ∧ (ready.peer 2).freshness = .fresh ∧ (ready.passTo 10500000).AtRest) ∧
    (let s := (moving ready 0 .running .outward).modPeer 2 (fun e => { e with freshness := .late })
     let u := s.passTo 11400000
     (s.peer 2).freshness = .late ∧ (s.peer 2).since = .running 9900000 ∧ s.cfg.ownId ≠ 2 ∧ s.cfg.locks[0].subject = 2 ∧
       (u.mot 0).state.isMoving = true ∧ (u.mot 0).direction.any (fun d => s.cfg.locks[0].applies 0 d) = true ∧
       u.StoppedBy (after (.peerLost 2) s) 2 0 ∧ ∀ k : MotIx, k ≠ 0 → (u.mot k).state.isMoving = false) ∧
    (let s := moving ready 0 .running .outward
     ¬ (s.passTo 10500000).StoppedBy (after (.peerLate 2) s) 2 0) ∧
    (let s := busy.modPeer 2 (fun e => { e with freshness := .late })
     let u := s.passTo 11400000
     u.StoppedBy (after (.peerLost 2) s) 2 0 ∧ (u.mot 0).state.isMoving = true ∧ u.MotionLaw ∧ u.HasRoom 4) := by decide +kernel

theorem witness_TimersComposeStatus :
    (ready.pub.active = true ∧ ready.pub.period = .running 9900000 ∧ (ready.passTo 10150000).pub = ready.pub ∧ ready.pub.mark = false) ∧
    (let s := { ready with pub := { ready.pub with mark := true, spacing := .running 9990000 } }
     s.pub.active = true ∧ s.pub.mark = true ∧ s.pub.spacing = .running 9990000 ∧ (s.passTo 10010000).pub = s.pub) ∧
    ((jolted ready).pub.period = .running 9900000 ∧ ((jolted ready).passTo 10150000).pub.period ≠ .running 9900000) := by decide +kernel

/-- A CLAIM of node 2 with tag 1 on S0. -/
def claimF (level amount hold : Nat) : Frame := frame level 2 2 [1, byteOf amount, byteOf (amount / 256), byteOf hold]

/-- Sixteen stored claims of node 3 and node 4. -/
def saturable : State :=
  fit { ready with foreign := (List.range 16).map (fun i => ⟨if i < 8 then 3 else 4, i % 8, 1, 1, 20, 10100000⟩) }

/-- One stored claim of node 2. -/
def oneClaim : State := fit { ready with foreign := [⟨2, 1, 0, 50, 20, 10100000⟩] }

theorem witness_NonzeroClaimIsStored :
    (ready.ForeignLaw ∧ ready.Hears .claim (claimF 20 50 0) ∧ le16 (claimF 20 50 0).payload 1 ≠ 0 ∧
      (ready.foreign.filter (fun x => !x.named 2 1)).length < 16 ∧ ∀ m : MotIx, (ready.claim m).state = .none) ∧
    (saturable.ForeignLaw ∧ saturable.Hears .claim (claimF 20 50 0) ∧
      (saturable.foreign.filter (fun x => !x.named 2 1)).length = 16) := by decide +kernel

theorem witness_ClaimsLeaveWithdrawnOrExpired :
    (ready.Sound ∧ ready.built = true ∧ ready.Hears .claim (claimF 20 0 30) ∧ le16 (claimF 20 0 30).payload 1 = 0 ∧
      ∀ x ∈ ready.foreign, x.named 2 1 = false) ∧
    (oneClaim.Sound ∧ oneClaim.built = true ∧ oneClaim.Hears .claim (claimF 20 0 30) ∧ frameSource (claimF 20 0 30) = 2 ∧
      byteAt (claimF 20 0 30).payload 0 % 8 = 1 ∧ (oneClaim.peer 2).freshness = .fresh) ∧
    ((⟨2, 1, 0, 50, 20, 10100000⟩ : ForeignClaim) ∈ oneClaim.foreign ∧ (⟨2, 1, 0, 50, 20, 10100000⟩ : ForeignClaim).named 2 1 = true) := by decide +kernel

theorem witness_OutrankedClaimYields :
    (claiming.Sound ∧ claiming.Hears .claim (claimF 19 2300 30) ∧ le16 (claimF 19 2300 30).payload 1 ≠ 0 ∧
      claiming.hasRoomFor (frameSource (claimF 19 2300 30)) (byteAt (claimF 19 2300 30).payload 0 % 8) = true ∧
      (claiming.claim 0).state = .opened ∧ (claiming.claim 0).override = false ∧
      (claiming.claim 0).segment = claimSegment (claimF 19 2300 30).payload ∧
      (∀ k : MotIx, k ≠ 0 → (claiming.mot k).state.isMoving = false) ∧ claiming.motionQueue = [] ∧ claiming.HasRoom 1) ∧
    (((storeClaim (claimEntry (claimF 19 2300 30) claiming.now) claiming).seg 0).headroom < 100 ∧ 19 < (claiming.claim 0).level) ∧
    ¬ ((storeClaim (claimEntry (claimF 19 50 30) claiming.now) claiming).seg 0).headroom < 100 := by decide +kernel

theorem witness_SettleEndDecides :
    (claiming.Sound ∧ (claiming.claim 0).state = .opened ∧ (claiming.claim 0).settle = .running 9970000) ∧
    (let u := claiming.passTo 10010000
     (u.claim 0).state = .opened ∧ (u.claim 0).settle = .running 9970000 ∧ (∀ k : MotIx, k ≠ 0 → (u.mot k).state.isMoving = false) ∧
       u.motionQueue = [] ∧ u.HasRoom 1 ∧ ¬ ((u.seg 0).headroom < 100 ∨ u.saturated = true) ∧ u.settleChecksStop 0 = false ∧
       (u.claim 0).sendMoment.any (fun x => decide (x + 10000 * (u.claim 0).hold ≤ u.now)) = false) ∧
    (let s := claiming.modClaim 0 (fun c => { c with sendMoment := some 9710000 })
     s.Sound ∧ ((s.passTo 10010000).claim 0).sendMoment.any (fun x => decide (x + 10000 * (s.claim 0).hold ≤ 10010000)) = true) ∧
    ({ claiming with saturated := true }.Sound ∧ ({ claiming with saturated := true }.passTo 10010000).saturated = true) ∧
    ((jolted claiming).Sound ∧ (((jolted claiming).passTo 10010000).claim 0).state ≠ .opened) := by decide +kernel

theorem witness_ClaimHoldRunsOutIntoRunning :
    let s := moving ready 0 .starting .outward
    ((s.claim 0).state = .held ∧ (s.claim 0).sendMoment = some 9980000 ∧ (s.passTo 10280000).MotionLaw ∧
      ((s.passTo 10280000).claim 0) = s.claim 0) ∧
    ((jolted s).passTo 10280000).MotionLaw ∧ (((jolted s).passTo 10280000).claim 0).state ≠ .held := by decide +kernel

theorem witness_RaiseClampFitsTheRoom :
    (1 ≤ (ready.dimCfg 0).rating ∧ levelFits (ready.dimCfg 0) (ready.dim 0).applied ∧ (ready.dim 0).applied < 4095 ∧
      ready.drawAt 0 4095 ≤ 0 + ((ready.seg 0).headroom - 100).toNat) ∧
    (let s := { ready with saturated := true }
     0 < s.drawAt 0 4095 ∧ ¬ (0 < 0 * 4095 / (s.dimCfg 0).rating)) ∧
    (let s := fit { ready with cfg := { ready.cfg with segs := Vector.replicate 4 ⟨102, 100, 300⟩ } }
     2 < s.drawAt 0 4095 ∧ ((s.seg 0).headroom - 100).toNat = 2 ∧ 0 < 2 * 4095 / (s.dimCfg 0).rating ∧
       2 * 4095 / (s.dimCfg 0).rating < (s.dimCfg 0).minOn) := by decide +kernel

/-- S0 in a shed state, with a headroom below 0 by a stored claim. -/
def shedding (g : ShedState) (amount : Nat) : State :=
  let s := fit { ready with foreign := [⟨2, 1, 0, amount, 20, 19000000⟩], segs := ready.segs.map (fun r => { r with shed := .shed2 }) }
  s.modSeg 0 (fun r => { r with
    shed := g, deepen := if 2400 < amount then .running 9500000 else .zero, recovery := if amount ≤ 2300 then .running 9500000 else .zero })

/-- S0 in SHED-1 with its deepen timer running for want of what M0's claim holds. -/
def pinched : State :=
  (moving (shedding .shed1 2350) 0 .starting .outward).modSeg 0 (fun r => { r with deepen := .running 9500000, recovery := .zero })

theorem witness_ShedTimersMoveTheSegment :
    (let s := shedding .shed1 2500
     s.Sound ∧ (s.seg 0).shed = .shed1 ∧ (s.seg 0).deepen = .running 9500000 ∧ ((s.passTo 10500000).seg 0) = s.seg 0) ∧
    (let s := shedding .shed2 50
     s.Sound ∧ (s.seg 0).shed = .shed2 ∧ (s.seg 0).recovery = .running 9500000 ∧ ((s.passTo 14500000).seg 0) = s.seg 0) ∧
    (let s := shedding .shed1 50
     s.Sound ∧ (s.seg 0).shed = .shed1 ∧ (s.seg 0).recovery = .running 9500000 ∧ ((s.passTo 14500000).seg 0) = s.seg 0) ∧
    ((jolted pinched).Sound ∧ ((jolted pinched).seg 0).deepen = .running 9500000 ∧
      (((jolted pinched).passTo 10500000).seg 0).deepen ≠ .running 9500000) ∧
    (let s := pressing 1 1 5 [1, 0, 0, 0, 0, 0] (shedding .shed1 2250)
     s.Sound ∧ (s.seg 0).recovery = .running 9500000 ∧ ((s.passTo 14500000).seg 0).recovery ≠ .running 9500000) := by decide +kernel

theorem witness_SetAndNudgeBeginAFade :
    (ready.Sound ∧ ready.Ordered .set (order 20 9 0 0 1 [0, 8, 50, 0]) ∧ cmdIndex (order 20 9 0 0 1 [0, 8, 50, 0]).payload = 0 ∧
      (ready.dimCfg 0).configured = true ∧ (ready.dimCfg 0).cued = false ∧ ready.HasRoom 1) ∧
    ready.Ordered .nudge (order 20 9 0 0 2 [0, 0xF8, 50, 0]) := by decide +kernel

theorem witness_CuedSetAndNudgePreload :
    (ready.Ordered .set (order 20 9 1 0 1 [0, 8, 50, 0]) ∧ cmdIndex (order 20 9 1 0 1 [0, 8, 50, 0]).payload = 1 ∧
      (ready.dimCfg 1).configured = true ∧ (ready.dimCfg 1).cued = true ∧ ready.HasRoom 1 ∧ ready.active = true) ∧
    ready.Ordered .nudge (order 20 9 1 0 2 [0, 0xF8, 50, 0]) := by decide +kernel

/-- D0 fading from 1000 to 2000, at step 40 of 100. -/
def fading : State :=
  fit (ready.modDim 0 (fun c => { c with
    applied := 1400, waiting := 1400, fade := some ⟨1000, 2000, 100, 40⟩, booked := dimmerDraw 80 2000 }))

theorem witness_FreezeEndsTheFade :
    (ready.Sound ∧ ready.Ordered .freeze (order 20 9 0 0 3 []) ∧ cmdIndex (order 20 9 0 0 3 []).payload = 0 ∧
      (ready.dimCfg 0).configured = true ∧ ready.HasRoom 1 ∧ (ready.dim 0).fade = none) ∧
    (fading.Sound ∧ fading.Ordered .freeze (order 20 9 0 0 3 []) ∧ (fading.dim 0).fade.isSome = true) := by decide +kernel

theorem witness_DrawsAndFadeValuesAreExact : 2048 ≤ 4095 ∧ 2047 ≤ 2048 ∧ 1 ≤ (⟨300, 0, 30, 0⟩ : Fade).steps ∧ 29 < 30 := by decide +kernel

theorem witness_FadesAdvanceAndEndAtTheirTargets :
    (fading.Sound ∧ fading.active = true ∧ fading.fadeTimer = .running 9995000 ∧ (fading.dim 0).fade = some ⟨1000, 2000, 100, 40⟩) ∧
    (let u := fading.passTo 10595000
     (u.dim 0).fade = some ⟨1000, 2000, 100, 40⟩) ∧
    (let s := pressing 0 3 17 [0, 0, 0, 0, 0, 0] fading
     s.Sound ∧ (s.dim 0).fade = some ⟨1000, 2000, 100, 40⟩ ∧ ((s.passTo 10595000).dim 0).fade = none) ∧
    (let s := moving ready 0 .stopping .outward
     s.Sound ∧ ∀ m : MotIx, ((s.passTo 10005000).mot m).state = .stopping →
       ((s.passTo 10005000).mot m).speedFade.all (fun f => decide (f.taken + 1 < f.steps)) = true) ∧
    (let s := (moving ready 0 .stopping .outward).modMot 0 (fun c => { c with speedFade := some ⟨900, 0, 30, 29⟩ })
     s.Sound ∧ s.active = true ∧ (s.passTo 10005000).StopsNow 0 ∧ ¬ (s.passTo 10005000).StopsNow 1 ∧ s.postureNamed 0 = false) := by decide +kernel

/-- A part of a scene for node 5: its index and count, and a level for D1. -/
def part (target scene index count : Nat) : Frame :=
  frame 20 6 2 [byteOf target, byteOf scene, byteOf (index + 4 * count), 150, 0, 0x08, 0x17]

/-- Scene 12 assembled: its one part holds D1's slot. -/
def staged : State :=
  { ready.modDim 1 (fun c => { c with slot := some ⟨12, 1800, 150⟩ }) with scenes := [⟨12, 2, 1, 1, 0, .running 9990000⟩] }

theorem witness_ScenePartLoadsItsSlots :
    (staged.Sound ∧ staged.Hears .scene (part 5 12 1 2) ∧ idField (byteAt (part 5 12 1 2).payload 0) = staged.cfg.ownId ∧
      byteAt (part 5 12 1 2).payload 1 ≠ 0 ∧ byteAt (part 5 12 1 2).payload 2 % 4 < byteAt (part 5 12 1 2).payload 2 / 4 % 4 ∧
      (staged.dimCfg 1).configured = true) ∧
    (ready.Hears .scene (part 6 12 0 1) ∧ idField (byteAt (part 6 12 0 1).payload 0) ≠ ready.cfg.ownId) ∧
    (ready.Hears .scene (part 5 0 0 1) ∧ byteAt (part 5 0 0 1).payload 1 = 0) ∧
    (ready.Hears .scene (part 5 1 2 2) ∧ byteAt (part 5 1 2 2).payload 2 / 4 % 4 ≤ byteAt (part 5 1 2 2).payload 2 % 4) ∧
    ((staged.assembly 12).any (fun b => decide (b.parts = 2) && b.received.getLsbD 0) = true ∧ staged.Hears .scene (part 5 12 0 2)) ∧
    (staged.Hears .scene (part 5 13 0 1) ∧ staged.assembly 13 = none ∧ (staged.dim 1).slot.any (fun y => decide (y.scene = 12)) = true ∧
      (sceneEntries (part 5 13 0 1).payload).any (fun e => decide (e.1 = 1)) = true) ∧
    (staged.Hears .scene (frame 20 6 2 [5, 13, 4, 150, 0, 0x08, 0xC7]) ∧
      (sceneEntries (frame 20 6 2 [5, 13, 4, 150, 0, 0x08, 0xC7]).payload).any (fun e => decide (e.1 = 12)) = true) := by decide +kernel

theorem witness_CueAppliesItsSlots :
    (staged.Sound ∧ staged.Hears .cue (frame 20 5 2 [12]) ∧ (staged.assembly 12).isSome = true ∧
      (staged.dim 1).slot = some ⟨12, 1800, 150⟩) ∧
    (staged.Hears .cue (frame 20 5 2 [13]) ∧ staged.assembly 13 = none) ∧
    staged.Hears .cue (frame 20 5 2 [0]) := by decide +kernel

theorem witness_AgedSceneIsDiscarded :
    (staged.SceneLaw ∧ staged.assembly 12 = some ⟨12, 2, 1, 1, 0, .running 9990000⟩ ∧ (staged.passTo 19990000).SceneLaw ∧
      (staged.passTo 19990000).assembly 12 = some ⟨12, 2, 1, 1, 0, .running 9990000⟩) ∧
    (let s := pressing 2 3 15 [0, 0, 0, 0, 0, 0] staged
     s.SceneLaw ∧ s.assembly 12 = some ⟨12, 2, 1, 1, 0, .running 9990000⟩ ∧ (s.passTo 19990000).SceneLaw ∧
       (s.passTo 19990000).assembly 12 = none) := by decide +kernel

theorem witness_BadCommandsAreRefused :
    (ready.Hears .command (order 20 9 0 3 1 []) ∧ cmdTarget (order 20 9 0 3 1 []).payload = ready.cfg.ownId ∧
      verbOf (cmdKind (order 20 9 0 3 1 []).payload) (cmdVerb (order 20 9 0 3 1 []).payload) = none ∧ ready.HasRoom 1) ∧
    (ready.Commanded .set (order 20 9 0 0 1 [1]) ∧ (cmdArgs (order 20 9 0 0 1 [1]).payload).length ≠ Verb.set.argCount) ∧
    (ready.Commanded .freeze (order 20 9 12 0 3 []) ∧
      ∀ d : DimIx, d.val = cmdIndex (order 20 9 12 0 3 []).payload → (ready.dimCfg d).configured = false) ∧
    (ready.Commanded .halt (order 20 9 3 1 4 []) ∧
      ∀ m : MotIx, m.val = cmdIndex (order 20 9 3 1 4 []).payload → (ready.motCfg m).configured = false) ∧
    (ready.Commanded .flag (order 20 9 0 2 1 [20, 1]) ∧ ¬ (16 ≤ byteAt (cmdArgs (order 20 9 0 2 1 [20, 1]).payload) 0 ∧
      byteAt (cmdArgs (order 20 9 0 2 1 [20, 1]).payload) 0 ≤ 19)) ∧
    (ready.Commanded .hold (order 20 9 0 1 3 [1]) ∧ (cmdArgs (order 20 9 0 1 3 [1]).payload).length ≠ 0) ∧
    (ready.Hears .command (frame 20 3 9 [6, 0x13, 0, 1]) ∧ cmdTarget (frame 20 3 9 [6, 0x13, 0, 1]).payload ≠ ready.cfg.ownId) := by decide +kernel

theorem witness_FlagSetsItsSoftFlag :
    ready.ModeLaw ∧ ready.Ordered .flag (order 20 9 0 2 1 [19, 1]) ∧ byteAt (cmdArgs (order 20 9 0 2 1 [19, 1]).payload) 0 = 16 + 3 ∧
      ready.HasRoom 1 ∧ ready.AtRest := by decide +kernel

/-- A pending entry of node 9, tag 3, for M1, behind a moving M0. -/
def waiting : State := { moving ready 0 .running .outward with motionQueue := [⟨{ held 20 3 .latched with origin := 9 }, 1, 11000000⟩] }

/-- M0 in STOPPING with a follow-on of node 1, tag 4. -/
def reversing : State := (moving ready 0 .stopping .outward).modMot 0 (fun c => { c with followOn := some ⟨held 8 4 .latched, none⟩ })

theorem witness_CancelRemovesHeldCommands :
    (waiting.QueueLaw ∧ waiting.Ordered .cancel (order 20 9 0 2 2 [3]) ∧ waiting.HasRoom 6 ∧
      waiting.motionQueue.any (fun e => e.named 9 (byteAt (cmdArgs (order 20 9 0 2 2 [3]).payload) 0 % 16)) = true) ∧
    (reversing.QueueLaw ∧ reversing.Ordered .cancel (order 20 1 0 2 2 [4]) ∧ reversing.HasRoom 6) := by decide +kernel

theorem witness_RestartSettlesTheNode :
    (busy.Sound ∧ busy.Ordered .restart (order 15 1 0 2 3 []) ∧ busy.cfg.isSafety (frameSource (order 15 1 0 2 3 [])) = true ∧
      busy.cfg.adjust (frameSource (order 15 1 0 2 3 [])) (order 15 1 0 2 3 []).level.toNat ≤ 15 ∧ busy.mode = .ready) ∧
    (listening.Sound ∧ listening.Ordered .restart (order 15 1 0 2 3 []) ∧ listening.mode = .listen ∧ listening.HasRoom 1) ∧
    (ready.Ordered .restart (order 16 1 0 2 3 []) ∧ ¬ ready.cfg.adjust (frameSource (order 16 1 0 2 3 [])) (order 16 1 0 2 3 []).level.toNat ≤ 15) ∧
    (ready.Ordered .restart (order 0 9 0 2 3 []) ∧ ready.cfg.isSafety (frameSource (order 0 9 0 2 3 [])) = false) := by decide +kernel

theorem witness_StartCheckTestsInItsOrder :
    (ready.stopLatch = false ∧ ready.mode ≠ .listen ∧ ¬ (ready.roleActive (.stowEnd 0) = true ∧ ready.roleActive (.deployEnd 0) = true) ∧
      (held 20 2 .latched).target = none ∧ Dir.outward = (held 20 2 .latched).dir) ∧
    (ready.mot 0).referenced = false ∧
    ((held 20 2 .holdToRun).mode = .holdToRun ∧ (ready.motCfg 0).localHold = false ∧
      (some 10000000 : Option Nat).any (fun x => decide (x ≤ ready.now)) = true) ∧
    (let s := ready.modMot 0 (fun c => { c with referenced := true, position := 5 })
     (some 5 : Option Nat).any (fun x => decide ((x : Int) = (s.mot 0).position)) = true ∧
     (some 6 : Option Nat).any (fun x => decide ((s.mot 0).position < x ∧ Dir.outward = .outward ∨ x < (s.mot 0).position ∧ Dir.outward = .inward)) = true) := by decide +kernel

/-- A MOVE of M0 OUT or IN, LATCHED; a HOME of M0. -/
def outF : Frame := order 20 9 0 1 1 [0, 0, 0, 0]
def inF : Frame := order 20 9 0 1 1 [1, 0, 0, 0]
def homeF : Frame := order 20 9 0 1 2 [0]

theorem witness_MoveAndHomeStartAnIdleChannel :
    (ready.Sound ∧ ready.Ordered .move outF ∧ cmdIndex outF.payload = 0 ∧ (ready.motCfg 0).configured = true ∧ ready.mode = .ready ∧
      ready.stopLatch = false ∧ (ready.mot 0).state = .idle ∧ ready.pendingEntry (frameSource outF) (cmdTag outF.payload) = none ∧
      ready.motionQueue = [] ∧ ready.HasRoom 2 ∧
      ready.startCheck 0 (readMove (frameCmd ready.cfg outF) 1000) none = .passes .outward ∧ ready.postureNamed 0 = false) ∧
    (ready.Ordered .home homeF ∧ ready.startCheck 0 (readHome (frameCmd ready.cfg homeF)) none = .passes .inward) ∧
    (let s := ready.modPeer 2 (fun e => { e with freshness := .late })
     s.Sound ∧ s.startCheck 0 (readMove (frameCmd s.cfg outF) 1000) none = .refused .interlock) ∧
    (let s := fit (ready.modInput 0 (fun r => { r with filtered := true }))
     s.Sound ∧ s.startCheck 0 (readMove (frameCmd s.cfg inF) 1000) none = .completes) := by decide +kernel

/-- Eight pending entries for M1 at level 24. -/
def queued8 : State :=
  { moving ready 0 .running .outward with
    motionQueue := (List.range 8).map (fun i => ⟨{ held 24 (8 + i) .latched with origin := 9 }, 1, 11000000⟩) }

theorem witness_MoveAndHomeAreRefusedOrQueued :
    (ready.QueueLaw ∧ ready.Ordered .move outF ∧ ready.HasRoom 3 ∧ ready.stopLatch = false ∧ ready.mode = .ready) ∧
    ({ ready with stopLatch := true }.QueueLaw ∧ { ready with stopLatch := true }.Ordered .move outF) ∧
    (listening.QueueLaw ∧ listening.Ordered .home homeF ∧ listening.mode = .listen) ∧
    ((moving ready 0 .tripped .outward).QueueLaw ∧ (moving ready 0 .tripped .outward).Ordered .move outF) ∧
    ((moving ready 0 .running .outward).QueueLaw ∧ (moving ready 0 .running .outward).Ordered .move (order 20 1 0 1 1 [0, 0, 0, 0]) ∧
      ((moving ready 0 .running .outward).mot 0).holder.any (fun h => decide (h.cmd.level ≤ 20)) = true) ∧
    (queued8.QueueLaw ∧ queued8.Ordered .move (order 24 1 0 1 1 [0, 0, 0, 0]) ∧
      (queued8.motionQueue.filter (fun x => !x.named 1 3)).length = 8 ∧
      ∀ w ∈ (queued8.motionQueue.filter (fun x => !x.named 1 3)).getLast?, w.cmd.level ≤ 24) ∧
    (∀ w ∈ (queued8.motionQueue.filter (fun x => !x.named 1 3)).getLast?, 20 < w.cmd.level) := by decide +kernel

theorem witness_PreemptionTakesTheChannel :
    (let s := moving ready 0 .running .outward
     let c := readMove (frameCmd s.cfg (order 8 1 0 1 1 [0, 0, 0, 0])) 1000
     s.Sound ∧ s.Ordered .move (order 8 1 0 1 1 [0, 0, 0, 0]) ∧ s.mode = .ready ∧ s.stopLatch = false ∧ (s.mot 0).state = .running ∧
       (s.mot 0).holder.any (fun h => decide (c.level < h.cmd.level)) = true ∧ s.pendingEntry 1 3 = none ∧ s.HasRoom 2 ∧
       c.target = none ∧ c.dirFrom (s.mot 0).position = (s.mot 0).direction ∧ c.mode = .latched) ∧
    (let s := moving ready 0 .starting .outward
     let c := readMove (frameCmd s.cfg (order 8 1 0 1 1 [1, 0, 0, 0])) 1000
     s.Sound ∧ s.Ordered .move (order 8 1 0 1 1 [1, 0, 0, 0]) ∧ c.dirFrom (s.mot 0).position = some .inward ∧
       (s.mot 0).direction = some .outward) ∧
    (claiming.Sound ∧ (readMove (frameCmd claiming.cfg (order 8 1 0 1 1 [1, 0, 0, 0])) 1000).dirFrom (claiming.mot 0).position =
       (claiming.mot 0).direction) ∧
    ((readMove (frameCmd claiming.cfg (order 8 1 0 1 1 [8, 0, 0, 0])) 1000).target ≠ none ∧ (claiming.mot 0).referenced = false) ∧
    (let s := (moving ready 0 .running .outward).modMot 0 (fun c => { c with referenced := true, position := 600 })
     s.Sound ∧ (readMove (frameCmd s.cfg (order 8 1 0 1 1 [8, 0x58, 2, 0])) 1000).target ≠ none ∧
       (readMove (frameCmd s.cfg (order 8 1 0 1 1 [8, 0x58, 2, 0])) 1000).dirFrom (s.mot 0).position = none) ∧
    (let s := (moving ready 0 .running .outward).modMot 0 (fun c => { c with referenced := true, position := 950 })
     let c := readMove (frameCmd s.cfg (order 8 1 0 1 1 [8, 0xD4, 3, 0])) 1000
     s.Sound ∧ c.dirFrom (s.mot 0).position = some .outward ∧ (s.mot 0).slow = false ∧ c.speed = .full) := by decide +kernel

/-- A MOVE OUT at level 8 against M0 in CLAIMING IN: refused where its interlock entry's subject is LATE, completed where the
deploy contact is active, and otherwise passed. -/
theorem witness_PreemptionTakesTheChannel_opposite :
    let f := order 8 1 0 1 1 [0, 0, 0, 0]
    (claiming.Sound ∧ claiming.Ordered .move f ∧ (readMove (frameCmd claiming.cfg f) 1000).dirFrom (claiming.mot 0).position = some .outward ∧
      (claiming.mot 0).direction = some .inward ∧ claiming.admits 0 100 = true ∧ (claiming.claim 0).state = .opened ∧
      (∀ n : Fin 16, claiming.cfg.locks[n].applies 0 .outward = true → claiming.lockHolds Freshness.starts claiming.cfg.locks[n] = true) ∧
      claiming.motionQueue = [] ∧ claiming.postureNamed 0 = false) ∧
    (let s := claiming.modPeer 2 (fun e => { e with freshness := .late })
     s.Sound ∧ ∃ n : Fin 16, s.cfg.locks[n].applies 0 .outward = true ∧ s.lockHolds Freshness.starts s.cfg.locks[n] = false) ∧
    ((pinned 1 claiming).Sound ∧ (pinned 1 claiming).roleActive (.deployEnd 0) = true ∧
      (pinned 1 claiming).roleActive (.stowEnd 0) = false) := by decide +kernel

theorem witness_HoldRefreshesItsCommands :
    let s := moving ready 0 .running .outward
    s.Ordered .hold (frame 20 3 1 [5, 0x02, 0x10, 3]) ∧ (s.mot 0).holder.any (fun h => h.cmd.origin == 1 && h.cmd.tag == 2) = true := by decide +kernel

theorem witness_HaltActsByState :
    (waiting.Sound ∧ waiting.Ordered .halt (order 20 9 1 1 4 []) ∧ waiting.HasRoom 2 ∧
      (∃ e ∈ waiting.motionQueue, e.named 9 3 = true ∧ e.channel = 1)) ∧
    (let s := moving ready 0 .running .outward
     s.Sound ∧ s.Ordered .halt (order 21 9 0 1 4 []) ∧
       (s.mot 0).holder.any (fun h => decide (h.cmd.origin ≠ 9 ∧ h.cmd.level < s.cfg.adjust 9 21)) = true ∧
       s.Ordered .halt (order 20 9 0 1 4 []) ∧
       (s.mot 0).holder.any (fun h => decide (h.cmd.origin ≠ 9 ∧ h.cmd.level < s.cfg.adjust 9 20)) = false) ∧
    (ready.Ordered .halt (order 21 9 0 1 4 []) ∧ (ready.mot 0).state = .idle) ∧
    (claiming.Ordered .halt (order 20 9 0 1 4 []) ∧ (claiming.mot 0).state = .claiming ∧ claiming.motionQueue = [] ∧ claiming.postureNamed 0 = false) ∧
    ((moving ready 0 .tripped .outward).Sound ∧ (moving ready 0 .tripped .outward).Ordered .halt (order 20 9 0 1 4 [])) := by decide +kernel

/-- M0 in SETTLING with a follow-on of node 1 at level 8. -/
def following : State :=
  (moving ready 0 .settling .outward).modMot 0 (fun c => { c with followOn := some ⟨{ held 8 4 .latched with dir := .inward }, none⟩ })

/-- M0 in SETTLING with pending commands for it, OUT or IN. -/
def settling (ds : List Dir) : State :=
  { moving ready 0 .settling .outward with
    motionQueue := ds.mapIdx (fun i d => ⟨{ held 20 (3 + i) .latched with origin := 9, dir := d }, 0, 11000000⟩) }

theorem witness_StoppingLeadsThroughSettlingOn :
    (reversing.Sound ∧ (reversing.mot 0).state = .stopping ∧ (reversing.mot 0).speedFade = some ⟨900, 0, 30, 10⟩ ∧
      reversing.fadeTimer = .running 9995000 ∧ reversing.postureNamed 0 = false ∧
      ((reversing.passTo 10195000).mot 0) = reversing.mot 0) ∧
    ((jolted reversing).Sound ∧ (((jolted reversing).passTo 10195000).mot 0).state ≠ .stopping) ∧
    (let s := pressing 2 3 15 [0, 0, 0, 0, 0, 0] following
     s.Sound ∧ (s.mot 0).deadTimer = .running 9900000 ∧ ((s.passTo 10200000).mot 0).deadTimer ≠ .running 9900000) ∧
    (let s := settling []
     s.Sound ∧ (s.mot 0).state = .settling ∧ (s.mot 0).deadTimer = .running 9900000 ∧ ((s.passTo 10200000).mot 0) = s.mot 0 ∧
       (s.mot 0).followOn = none) ∧
    (following.Sound ∧ (following.mot 0).followOn = some ⟨{ held 8 4 .latched with dir := .inward }, none⟩ ∧
      (following.passTo 10200000).HasRoom 2 ∧
      (following.passTo 10200000).startCheck 0 { held 8 4 .latched with dir := .inward } none = .passes .inward) ∧
    (let s := fit { following with saturated := true }
     s.Sound ∧ (s.passTo 10200000).startCheck 0 { held 8 4 .latched with dir := .inward } none = .refused .budget) ∧
    (let s := pinned 0 following
     s.Sound ∧ (s.passTo 10200000).startCheck 0 { held 8 4 .latched with dir := .inward } none = .completes) ∧
    (let s := { following with motionQueue := [⟨{ held 7 3 .latched with origin := 9 }, 0, 11000000⟩] }
     s.Sound ∧ ((s.passTo 10200000).motionQueue.find? (fun e => decide (e.channel = 0))).any (fun e => decide (e.cmd.level < 8)) = true) := by decide +kernel

/-- The first pending entry of a channel that becomes IDLE: passed; refused alone; completed; and refused with another after it
that passes. -/
theorem witness_StoppingLeadsThroughSettlingOn_taking :
    (let s := settling [.inward]
     let u := s.passTo 10200000
     s.Sound ∧ u.HasRoom 3 ∧ s.postureNamed 0 = false ∧
       (u.motionQueue.find? (fun x => decide (x.channel = 0))).any (fun e => decide (u.startCheck 0 e.cmd none = .passes .inward)) = true) ∧
    (let s := { settling [.inward] with saturated := true }
     let u := s.passTo 10200000
     s.Sound ∧ u.motionQueue.length = 1 ∧
       (u.motionQueue.find? (fun x => decide (x.channel = 0))).any (fun e => decide (u.startCheck 0 e.cmd none = .refused .budget)) = true) ∧
    (let s := pinned 0 (settling [.inward])
     let u := s.passTo 10200000
     s.Sound ∧ (u.motionQueue.find? (fun x => decide (x.channel = 0))).any (fun e => decide (u.startCheck 0 e.cmd none = .completes)) = true) ∧
    (let s := (settling [.outward, .inward]).modPeer 2 (fun e => { e with freshness := .late })
     let u := s.passTo 10200000
     s.Sound ∧ u.motionQueue.map (fun e => u.startCheck 0 e.cmd none) = [.refused .interlock, .passes .inward]) := by decide +kernel

theorem witness_HoldLossEndsTheMotion :
    (claiming.Sound ∧ (claiming.mot 0).holder.any (fun h => decide (h.deadline = some 10100000)) = true ∧
      ((claiming.passTo 10100000).mot 0).holder.any (fun h => decide (h.deadline = some 10100000)) = true ∧
      (claiming.passTo 10100000).motionQueue = [] ∧ ((claiming.passTo 10100000).mot 0).state = .claiming) ∧
    ((jolted claiming).Sound ∧ (((jolted claiming).passTo 10100000).mot 0).holder = none) ∧
    (let s := pinned 4 (moving ready 1 .running .inward)
     s.Sound ∧ s.cfg.roles[4] = .hold 1 ∧ (s.input 4).filtered = true ∧ s.built = true ∧ (s.motCfg 1).localHold = true ∧
       (s.mot 1).holder.any (fun h => decide (h.cmd.mode = .holdToRun)) = true ∧ s.flagNamed 4 = false ∧ s.motionQueue = [] ∧
       (s.mot 1).state = .running ∧ s.HasRoom 1) := by decide +kernel

theorem witness_ExpiredEntryLeavesTheQueue :
    let e : PendEntry := ⟨{ held 20 3 .latched with origin := 9 }, 1, 11000000⟩
    (waiting.QueueLaw ∧ (waiting.passTo 11000000).QueueLaw ∧ e ∈ waiting.motionQueue ∧ e.named 9 3 = true ∧ waiting.active = true ∧
      e ∈ (waiting.passTo 11000000).motionQueue ∧ (waiting.passTo 11000000).HasRoom 1) ∧
    ((jolted waiting).QueueLaw ∧ e ∈ (jolted waiting).motionQueue ∧ ((jolted waiting).passTo 11000000).QueueLaw ∧
      ((jolted waiting).passTo 11000000).motionQueue = []) := by decide +kernel

theorem witness_StopSetsTheLatch :
    (busy.Sound ∧ busy.Hears .stop (frame 31 0 9 [0]) ∧ busy.stopLatch = false ∧ (busy.mot 0).state.isMoving = true ∧ busy.HasRoom 4 ∧
      (∀ k : MotIx, busy.postureNamed k = false) ∧ (busy.mot 2).state.isMoving = false) ∧
    ({ ready with stopLatch := true }.Sound ∧ { ready with stopLatch := true }.Hears .stop (frame 31 0 9 [0])) := by decide +kernel

theorem witness_ReleaseClearsTheLatch :
    (let s := { ready with stopLatch := true }
     s.ModeLaw ∧ s.Hears .release (frame 31 1 1 []) ∧ s.cfg.isSafety (frameSource (frame 31 1 1 [])) = true ∧ s.roleActive .estop = false ∧
       ∀ n : NodeId, (s.peer n).freshness = .fresh ∨ (s.peer n).freshness = .late → (s.peer n).contents.bits.estopHeld = false) ∧
    (ready.Hears .release (frame 31 1 9 []) ∧ ready.cfg.isSafety (frameSource (frame 31 1 9 [])) = false ∧ ready.stopLatch = false) ∧
    ((ready.modInput 7 (fun r => { r with filtered := true })).roleActive .estop = true) := by decide +kernel

theorem witness_StallTimerTripsTheChannel :
    let u := busy.passTo 10200000
    (busy.Sound ∧ (busy.mot 0).state = .running ∧ busy.hasPulse 0 = true ∧ 0 < (busy.motCfg 0).stallTime ∧
      (busy.mot 0).stallTimer = .running 9700000 ∧ (u.mot 0).stallTimer = .running 9700000 ∧
      (∀ k : MotIx, busy.postureNamed k = false) ∧ u.HasRoom 4 ∧ (busy.motCfg 1).siblingTrip = true ∧ (u.mot 1).state.isMoving = true ∧
      (u.mot 2).state.isMoving = false) ∧
    ((jolted busy).Sound ∧ (((jolted busy).passTo 10200000).mot 0).stallTimer ≠ .running 9700000) := by decide +kernel

theorem witness_CurrentSampleJoinsTheHistory :
    (let u := busy.passTo 10000500
     busy.Sound ∧ busy.sampleTimer = .running 9999500 ∧ (busy.motCfg 0).configured = true ∧
      u.AtTrip #v[200, 299, 0, 0] 0 ∧ ¬ u.AtTrip #v[200, 299, 0, 0] 1 ∧ (u.mot 0).overCount = 0 ∧ (busy.motCfg 2).configured = false) ∧
    (let s := fit (busy.modMot 0 (fun c => { c with overCount := 1 }))
     s.Sound ∧ (s.passTo 10000500).AtTrip #v[200, 0, 0, 0] 0 ∧ ((s.passTo 10000500).mot 0).overCount ≠ 0) := by decide +kernel

theorem witness_InputChangeUpdatesItsRecord :
    (ready.Sound ∧ ready.built = true ∧ (ready.input 6).filtered = false ∧ ready.cfg.roles[6] = .flag ∧ ready.AtRest) ∧
    (ready.cfg.roles[7] = .estop ∧ (ready.input 7).filtered ≠ true ∧ ready.active = true ∧ ready.motionQueue = [] ∧ ready.HasRoom 1) ∧
    (let s := { pinned 7 ready with stopLatch := true, rebroadcast := .running 9500000 }
     s.Sound ∧ (s.input 7).filtered ≠ false ∧ s.rebroadcast = .running 9500000 ∧ (s.passTo 10500000).rebroadcast = .running 9500000 ∧
       s.active = true ∧ (s.passTo 10500000).HasRoom 1) ∧
    (let s := turning 7 { pinned 7 ready with stopLatch := true, rebroadcast := .running 9500000 }
     s.Sound ∧ s.rebroadcast = .running 9500000 ∧ (s.passTo 10500000).rebroadcast ≠ .running 9500000) := by decide +kernel

/-- M0 moving OUT, referenced, at a position, toward a target. -/
def nearing (position : Int) (target : Option Nat) : State :=
  (moving ready 0 .running .outward).modMot 0 (fun c => { c with
    referenced := true, position := position
    holder := c.holder.map (fun h => { h with cmd := { h.cmd with target := target } }) })

theorem witness_ContactsPulsesAndGuardsAct_contacts :
    (let s := moving ready 0 .running .inward
     s.Sound ∧ s.built = true ∧ (s.input 0).filtered = (!true) ∧ s.flagNamed 0 = false ∧ s.cfg.roles[0] = .stowEnd 0 ∧ s.hasPulse 0 = true ∧
       (s.mot 0).state.isEnergized = true ∧ s.roleActive (.deployEnd 0) = false ∧ (s.mot 0).direction = some .inward ∧
       s.cfg.roles[1] = .deployEnd 0 ∧ (s.input 1).filtered = (!true) ∧ s.flagNamed 1 = false ∧ s.roleActive (.stowEnd 0) = false ∧
       s.HasRoom 1 ∧ ¬ s.Reaches 0 1000) ∧
    (let s := (moving ready 0 .running .inward).modMot 0 (fun c => { c with
       holder := c.holder.map (fun h => { h with cmd := { h.cmd with target := some 1000 } }) })
     s.Sound ∧ s.Reaches 0 1000) ∧
    (busy.cfg.roles[1] = .deployEnd 0 ∧ (busy.input 1).filtered = (!true) ∧ (busy.mot 0).direction = some .outward ∧ busy.roleActive (.stowEnd 0) = false) ∧
    (let s := pinned 0 (moving ready 0 .running .outward)
     s.Sound ∧ s.roleActive (.stowEnd 0) = true ∧ (s.input 1).filtered = (!true) ∧ (s.input 0).filtered = (!false)) ∧
    ((ready.mot 0).state.isEnergized = false ∧ (claiming.mot 0).state.isEnergized = false ∧ (claiming.input 1).filtered = (!true)) := by decide +kernel

theorem witness_ContactsPulsesAndGuardsAct :
    (busy.Sound ∧ busy.cfg.roles[2] = .pulse 0 ∧ (busy.input 2).filtered = (!true) ∧ (busy.motCfg 0).edge = .rising ∧ busy.flagNamed 2 = false) ∧
    ((pinned 2 busy).Sound ∧ ((pinned 2 busy).input 2).filtered = (!false) ∧ (busy.motCfg 0).edge = (if false then .falling else .rising)) ∧
    ((nearing 600 (some 601)).Sound ∧ (nearing 600 (some 601)).HasRoom 1 ∧ (nearing 600 (some 601)).Reaches 0 601 ∧
      ¬ (nearing 599 (some 601)).Reaches 0 600 ∧ ((nearing 599 (some 601)).mot 0).state.isDriven = true) ∧
    ((nearing 899 none).Sound ∧ ((nearing 899 none).mot 0).slow = false ∧ (nearing 899 none).InBandAt 0 900 ∧ ¬ (nearing 898 none).InBandAt 0 899) ∧
    ((claiming.mot 0).state.isDriven = false ∧ (ready.mot 0).direction = none) ∧
    (busy.cfg.roles[5] = .guard 0 ∧ (busy.input 5).filtered = (!true) ∧ busy.flagNamed 5 = false ∧ (busy.mot 0).state.isMoving = true) := by decide +kernel

theorem witness_KeysFireTheirBindings :
    (ready.Sound ∧ ready.active = true ∧ ready.cfg.roles[3] = .key ∧ ready.flagNamed 3 = false ∧ ready.link.queue = [] ∧
      (∀ b : BindIx, (ready.binding b).input = 3 → (ready.binding b).target ≠ ready.cfg.ownId) ∧ (ready.input 3).filtered = false ∧
      (ready.binding 0).HoldsToRun ∧
      (∀ b : BindIx, (ready.binding b).input = 3 → (ready.binding b).target ≠ 0 → (ready.binding b).args.length = 6)) ∧
    (let s := { ready.modInput 3 (fun r => { r with filtered := true }) with presses := ready.presses.set 0 ⟨true, some 10050000⟩ }
     s.Sound ∧ (s.input 3).filtered = true ∧ (s.press 0).pressed = true) ∧
    (ready.cfg.roles[9] = .key ∧ (∀ x : BindIx, (ready.binding x).input = 9 ↔ x = 1) ∧ (ready.binding 1).target = ready.cfg.ownId ∧
      ready.cfg.ownId ≠ 0 ∧ (ready.binding 1).kind = 2 ∧ (ready.binding 1).verb = 1 ∧ byteAt (ready.binding 1).args 0 = 16 + 0 ∧
      2 ≤ (ready.binding 1).args.length ∧ (ready.input 9).filtered = false ∧ ready.flagNamed 9 = false) := by decide +kernel

theorem witness_RepetitionRunsUntilAnAnswerEndsIt :
    (let s := { ready with presses := ready.presses.set 0 ⟨true, some 10050000⟩ }
     (s.press 0).nextHold = some 10050000 ∧ ((s.passTo 10050000).press 0).nextHold = some 10050000 ∧ (s.passTo 10050000).HasRoom 1 ∧ s.active = true ∧ (s.binding 0).target ≠ s.cfg.ownId ∧ s.HasRoom 1 ∧
       s.Hears .answer (frame 28 4 9 [5, 8, 2, 1]) ∧ idField (byteAt (frame 28 4 9 [5, 8, 2, 1]).payload 0) = s.cfg.ownId ∧
       byteAt (frame 28 4 9 [5, 8, 2, 1]).payload 1 % 16 = 8 + 0 ∧ (s.press 0).pressed = true) ∧
    (ready.Hears .answer (frame 28 4 9 [5, 8, 1, 0]) ∧ byteAt (frame 28 4 9 [5, 8, 1, 0]).payload 2 < 2) ∧
    (ready.Hears .answer (frame 28 4 9 [6, 8, 2, 1]) ∧ idField (byteAt (frame 28 4 9 [6, 8, 2, 1]).payload 0) ≠ ready.cfg.ownId) ∧
    (ready.Hears .answer (frame 28 4 9 [5, 8, 2, 1]) ∧ (ready.press 0).pressed = false) ∧
    (let s := turning 3 { pinned 3 ready with presses := ready.presses.set 0 ⟨true, some 10050000⟩ }
     (s.press 0).nextHold = some 10050000 ∧ ((s.passTo 10050000).press 0).nextHold ≠ some 10050000) ∧
    (let s := { ready with
       cfg := { ready.cfg with binds := ready.cfg.binds.set 0 ⟨3, 5, 1, 1, 1, 17, .holdToRun, true, [0, 0, 0, 0, 0, 0]⟩ }
       presses := ready.presses.set 0 ⟨true, some 10050000⟩ }
     ((s.passTo 10050000).press 0).nextHold = some 10050000 ∧ (s.binding 0).target = s.cfg.ownId ∧ (s.binding 0).kind = 1) := by decide +kernel

end Sys2Proof.Tests
end

section
/-! PROOF. The zone link: what each operation of the Link Controller does to its queue and its slot, said once, and the
statements about LINE_IDLE, ARBITRATION_LOSS and an offer. -/

namespace Sys2Proof.Machine

/-! ## The transmit queue -/

/-- The place of R9 as the statements name it. -/
theorem insertFrame_eq_queued (f : TxFrame) (q : List TxFrame) : insertFrame f q = TxFrame.queued [f] q := by
  show insertFrame f q = q.takeWhile (fun x => x.notWorse f) ++ f :: q.dropWhile (fun x => x.notWorse f)
  induction q with
  | nil => rfl
  | cons x q ih => by_cases h : x.notWorse f = true <;> simp [insertFrame, h, ih]

/-- The frame that R10 gives up is the last one off the line. -/
theorem removeWorst_eq (q : List TxFrame) :
    removeWorst q = (q.filter (fun x => !x.onLine)).getLast?.map
      (fun w => (w, (q.reverse.eraseP (fun x => !x.onLine)).reverse)) := by
  induction q with
  | nil => rfl
  | cons x q ih =>
    rw [removeWorst, ih, List.reverse_cons, List.filter_cons]
    cases hw : (q.filter (fun x => !x.onLine)).getLast? with
    | none =>
      have hq : ∀ y ∈ q.reverse, ¬ (!y.onLine) = true := by simpa using hw
      rw [List.eraseP_append_right _ hq, List.getLast?_eq_none_iff.mp hw]
      cases hx : x.onLine <;> simp [hx]
    | some w =>
      obtain ⟨hm, ho⟩ : w ∈ q ∧ (!w.onLine) = true := List.mem_filter.mp (List.mem_of_getLast? hw)
      rw [List.eraseP_append_left (p := fun x => !x.onLine) ho _ (List.mem_reverse.mpr hm)]
      cases hx : x.onLine <;> simp [List.getLast?_cons, hw]

/-- An offer with room. -/
theorem offerFrame_room {s : State} (f : TxFrame) (ha : s.active = true) (h : s.link.queue.length < 8) :
    offerFrame f s = (s.modLink (fun l => l.withQueued [f]), []) := by
  unfold offerFrame
  rw [if_neg (by simp [ha]), if_pos (show s.link.queue.length < Config.txQueueSize from h)]
  simp only [insertFrame_eq_queued]
  rfl

/-- An offer on a full queue, where a frame off the line can be given up. -/
theorem offerFrame_full {s : State} (f w : TxFrame) (ha : s.active = true) (h : s.link.queue.length = 8)
    (hw : (s.link.queue.filter (fun x => !x.onLine)).getLast? = some w) :
    offerFrame f s =
      if w.notWorse f then (s.modLink Link.raiseErrors, [.report false f])
      else (s.modLink (fun l => { l.raiseErrors with
        queue := TxFrame.queued [f] (s.link.queue.reverse.eraseP (fun x => !x.onLine)).reverse }), [.report false w]) := by
  unfold offerFrame
  rw [if_neg (by simp [ha]), if_neg (by simp [h, Config.txQueueSize]), removeWorst_eq, hw]
  simp only [Option.map_some, insertFrame_eq_queued]

/-! ## The frame on the line -/

/-- With a queued frame on the line, the slot's is off it. -/
theorem Link.slot_offLine {l : Link} {f : TxFrame} (h : l.onLineCount ≤ 1) (hf : l.queuedOnLine = some f) :
    l.slot.any (fun x => x.onLine) = false := by
  have hm : f ∈ l.queue.filter (fun x => x.onLine) :=
    List.mem_filter.mpr ⟨List.mem_of_find?_eq_some hf, by simpa using List.find?_some hf⟩
  have hp := List.length_pos_of_mem hm
  unfold Link.onLineCount at h
  cases hs : l.slot.any (fun x => x.onLine)
  · rfl
  · rw [hs, if_pos rfl] at h; omega

/-- With the slot's frame on the line, every queued one is off it. -/
theorem Link.queue_offLine {l : Link} (h : l.onLineCount ≤ 1) (hs : l.slot.any (fun x => x.onLine) = true) :
    l.queuedOnLine = none := by
  cases hf : l.queuedOnLine with
  | none => rfl
  | some f => rw [Link.slot_offLine h hf] at hs; cases hs

theorem Link.queuedOnLine_eq_none {l : Link} : l.queuedOnLine = none ↔ ∀ x ∈ l.queue, x.onLine = false := by
  simp [Link.queuedOnLine]

theorem Link.busy_of_queuedOnLine {l : Link} {f : TxFrame} (hf : l.queuedOnLine = some f) : l.busy = true := by
  have hm := List.mem_of_find?_eq_some hf
  have ho := List.find?_some hf
  simp only [Link.busy, Bool.or_eq_true, List.any_eq_true]
  exact .inl ⟨f, hm, ho⟩

/-- A busy line with no queued frame on it has the slot's. -/
theorem Link.slot_onLine {l : Link} (hb : l.busy = true) (hq : l.queuedOnLine = none) :
    ∃ f, l.slot = some f ∧ f.onLine = true := by
  have hn := Link.queuedOnLine_eq_none.mp hq
  have ha : l.queue.any (fun x => x.onLine) = false := by simpa using hn
  simpa [Link.busy, ha, Option.any_eq_true] using hb

/-- A queue in which a frame is on the line is longer than the frames off it. -/
theorem Link.filter_length_lt {l : Link} {f : TxFrame} (hf : l.queuedOnLine = some f) :
    (l.queue.filter (fun x => !x.onLine)).length < l.queue.length := by
  have ho : f.onLine = true := List.find?_some hf
  exact List.length_filter_lt_length_iff_exists.mpr ⟨f, List.mem_of_find?_eq_some hf, by simp [ho]⟩

/-! ## The choice at an idle -/

theorem execLineIdle_quiet {s : State} (hb : s.built = true) (h : s.active = false ∨ s.link.busy = true) :
    exec .lineIdle s = .next { s with link := { s.link with joined := true } } := by
  have hc : (s.active && !s.link.busy) = false := by rcases h with h | h <;> simp [h]
  show Host.Outcome.next (if s.built then lineBecomesIdle s else s) = _
  rw [if_pos hb, lineBecomesIdle, hc]
  rfl

theorem execLineIdle_contends {s : State} (hb : s.built = true) (ha : s.active = true) (h : s.link.busy = false) :
    exec .lineIdle s = .next { s with link := Link.contend { s.link with joined := true } } := by
  show Host.Outcome.next (if s.built then lineBecomesIdle s else s) = _
  rw [if_pos hb, lineBecomesIdle, ha, h]
  rfl

theorem TxFrame.notWorse_iff (a b : TxFrame) :
    a.notWorse b = true ↔ a.level < b.level ∨ (a.level = b.level ∧ a.body.kind.code ≤ b.body.kind.code) := by
  simp [TxFrame.notWorse]

/-- Settles O16, by the four cases of a head in the queue and a frame in the slot. -/
theorem lineIdleChoosesTheBetterFrame : Obligations.LineIdleChoosesTheBetterFrame := by
  unfold Obligations.LineIdleChoosesTheBetterFrame
  intro s hb
  refine ⟨execLineIdle_quiet hb, fun ha hl => ⟨_, execLineIdle_contends hb ha hl, rfl, ?_⟩⟩
  cases hq : s.link.queue with
  | nil =>
    cases hs : s.link.slot with
    | none => simp [Link.contend, hq, hs]
    | some x => simp [Link.contend, Link.startSlot, hq, hs]
  | cons h rest =>
    cases hs : s.link.slot with
    | none => simp [Link.contend, Link.startHead, hq, hs]
    | some x => simp [Link.contend, Link.startHead, Link.startSlot, hq, hs, ← TxFrame.notWorse_iff]

/-! ## A lost arbitration -/

theorem loseArbitration_queued {s : State} {f : TxFrame} (hf : s.link.queuedOnLine = some f) :
    loseArbitration s = s.modLink Link.releaseQueue := by
  unfold loseArbitration; rw [hf]

theorem loseArbitration_slot {s : State} {f : TxFrame} (hq : s.link.queuedOnLine = none) (hs : s.link.slot = some f)
    (hf : f.onLine = true) :
    loseArbitration s = s.modLink (fun l => l.settleSlot (some { f with onLine := false })) := by
  unfold loseArbitration; rw [hq, hs]; simp [hf]

/-- Settles O17: the frame on the line is a queued one or the slot's. -/
theorem arbitrationLossKeepsTheFrame : Obligations.ArbitrationLossKeepsTheFrame := by
  unfold Obligations.ArbitrationLossKeepsTheFrame
  intro s hl hb
  obtain ⟨-, -, -, hone, hnext, -⟩ := hl
  refine ⟨loseArbitration s, rfl, ?_⟩
  cases hq : s.link.queuedOnLine with
  | some f =>
    have hs := Link.slot_offLine hone hq
    rw [loseArbitration_queued hq]
    refine ⟨rfl, ?_, rfl, rfl, ?_, fun _ => rfl⟩
    · simp [Link.busy, Link.releaseQueue, hs]
    · cases hx : s.link.slot with
      | none => simp [Link.releaseQueue, hx]
      | some x =>
        rw [hx, Option.any_some] at hs
        simp [Link.releaseQueue, hx, hs]
  | none =>
    have hoff := Link.queuedOnLine_eq_none.mp hq
    obtain ⟨f, hs, hf⟩ := Link.slot_onLine hb hq
    rw [loseArbitration_slot hq hs hf]
    refine ⟨rfl, ?_, rfl, ?_, ?_, fun h => ?_⟩
    · have hn : (s.link.slotNext.or (some { f with onLine := false })).any (fun x => x.onLine) = false := by
        cases hx : s.link.slotNext with
        | none => rfl
        | some x => rw [hx] at hnext; simpa using hnext
      rw [Link.busy, Bool.or_eq_false_iff]
      exact ⟨by simpa [Link.settleSlot] using hoff, hn⟩
    · have hid : ∀ x ∈ s.link.queue, ({ x with onLine := false } : TxFrame) = id x := fun x hx => by
        rw [← hoff x hx]; rfl
      exact ((List.map_congr_left hid).trans (List.map_id _)).symm
    · simp [Link.settleSlot, hs, hf]
    · simp [hs, hf] at h

/-! ## An offer -/

/-- Settles O20, from what an offer with room and an offer on a full queue do. -/
theorem offeredFrameTakesItsPlace : Obligations.OfferedFrameTakesItsPlace := by
  unfold Obligations.OfferedFrameTakesItsPlace
  intro s f w ha _
  refine ⟨fun h => offerFrame_room f ha h, fun h hw => ?_⟩
  rw [offerFrame_full f w ha h hw]
  exact ⟨fun hn => if_pos hn, fun hn => if_neg (by simp [hn])⟩

end Sys2Proof.Machine
end

section
/-! PROOF. The end of an attempt: what a report of a CLAIM does to its claim, and the statements about TRANSMIT_ERROR and
FRAME_SENT. -/

namespace Sys2Proof.Machine

/-! ## Events and their work -/

theorem raises_of_contents {s t : State} (h : t.contents = s.contents) : s.raises t = false := by
  simp [State.raises, h]

/-- An event that shows nothing new in the own STATUS is its operation with its consequences. -/
theorem event_unseen {op : Op} {s : State} (h : (op s).1.contents = s.contents) (hr : settleRaises (op s) = false) :
    event op s = settle (op s) := by
  rw [event, raises_of_contents h, hr, Bool.false_or, publish_none]

/-- Without a composition the publisher leaves the Link Controller as it was. -/
theorem publish_link_of_seq {r : Bool} {s : State} (h : (publish r s).pub.seq = s.pub.seq) :
    (publish r s).link = s.link := by
  unfold publish at h ⊢
  split at h
  · split at h
    · have hs : (s.pub.seq + 1) % 256 = s.pub.seq := h
      omega
    · rw [if_pos ‹_›, if_neg ‹_›]
  · rw [if_neg ‹_›]

/-- Work that does nothing. -/
theorem settle_idle {s : State} {acts : List Act} (h : ∀ a ∈ acts, perform a s = (s, [])) :
    settle (s, acts) = s ∧ settleRaises (s, acts) = false := by
  induction acts with
  | nil => simp
  | cons a rest ih =>
    obtain ⟨h1, h2⟩ := ih fun b hb => h b (List.mem_cons_of_mem _ hb)
    rw [settle_cons, settleRaises_cons, h a (List.mem_cons_self ..)]
    exact ⟨h1, by simp [h2]⟩

/-- An offer with room, before work that then does nothing. -/
theorem settle_offer {s : State} {f : TxFrame} {acts : List Act} (ha : s.active = true) (hq : s.link.queue.length < 8)
    (h : ∀ a ∈ acts, perform a (s.modLink (fun l => l.withQueued [f])) = (s.modLink (fun l => l.withQueued [f]), [])) :
    settle (s, .offer f :: acts) = s.modLink (fun l => l.withQueued [f]) ∧ settleRaises (s, .offer f :: acts) = false := by
  obtain ⟨h1, h2⟩ := settle_idle h
  rw [settle_cons, settleRaises_cons]
  simp only [perform, offerFrame_room f ha hq, List.nil_append]
  exact ⟨h1, by rw [h2, Bool.or_false]; exact raises_of_contents rfl⟩

theorem settle_report (s : State) (sent : Bool) (f : TxFrame) :
    settle (s, [.report sent f]) = settle (takeReport sent f s) ∧
      settleRaises (s, [.report sent f]) =
        (s.raises (takeReport sent f s).1 || settleRaises (takeReport sent f s)) := by
  rw [settle_cons, settleRaises_cons, List.append_nil]
  exact ⟨rfl, rfl⟩

/-! ## The report of a CLAIM -/

theorem State.modClaim_modClaim (s : State) (m : MotIx) (f g : OwnClaim → OwnClaim) :
    (s.modClaim m f).modClaim m g = s.modClaim m (fun r => g (f r)) := by
  simp [State.modClaim, State.claim]

/-- One frame of the claim fewer is in flight. -/
def State.landed (s : State) (m : MotIx) : State := s.modClaim m (fun r => { r with inFlight := r.inFlight - 1 })

@[simp] theorem State.landed_claim (s : State) (m : MotIx) :
    (s.landed m).claim m = { s.claim m with inFlight := (s.claim m).inFlight - 1 } := by simp [State.landed]

theorem takeReport_claim {f : TxFrame} {m : MotIx} {g : SegIx} {amount hold : Nat} (sent : Bool) (s : State)
    (hf : f.body = .claim m g amount hold) :
    takeReport sent f s = Op.andThen (if amount ≠ 0 then creationReport sent m else Op.skip) (releaseWaiting m) (s.landed m) := by
  unfold takeReport
  rw [hf]
  simp only [Op.chain_cons, Op.chain_nil, Op.set_run, List.nil_append, List.append_nil]
  rfl

theorem takeReport_other {f : TxFrame} (sent : Bool) (s : State) (hf : f.body.kind ≠ .claim) :
    takeReport sent f s = (s, []) := by
  unfold takeReport
  cases hb : f.body with
  | claim m g amount hold => rw [hb] at hf; exact absurd rfl hf
  | _ => rfl

/-- A report finds nothing to do where its frame did not create the claim that stands (R68). -/
theorem creationReport_idle {s : State} {m : MotIx} (sent : Bool)
    (h : (s.claim m).state = .none ∨ (s.claim m).state = .waiting ∨ (s.claim m).sendMoment.isSome = true) :
    creationReport sent m s = (s, []) := by
  unfold creationReport
  rcases h with h | h | h <;> simp [h]

/-- The report sets the send moment of a HELD claim, and of an OPEN one that does not yield (R68). -/
theorem creationReport_stamps {s : State} {m : MotIx} {sent : Bool} (hn : (s.claim m).sendMoment = none)
    (h : (s.claim m).state = .held ∨ ((s.claim m).state = .opened ∧ (sent = true ∨ (s.claim m).override = true))) :
    creationReport sent m s = (s.modClaim m (fun r => { r with sendMoment := some s.now }), []) := by
  unfold creationReport
  rcases h with h | ⟨h, rfl | ho⟩
  · simp [hn, h]
  · simp [hn, h]
  · simp [hn, h, ho]

theorem creationReport_yields {s : State} {m : MotIx} (hn : (s.claim m).sendMoment = none)
    (h : (s.claim m).state = .opened) (ho : (s.claim m).override = false) :
    creationReport false m s = yieldClaim m s := by
  unfold creationReport
  simp [hn, h, ho]

theorem releaseWaiting_idle {s : State} {m : MotIx} (h : (s.claim m).state ≠ .waiting ∨ (s.claim m).inFlight ≠ 0) :
    releaseWaiting m s = (s, []) := by
  unfold releaseWaiting
  rw [Op.cond_run, if_neg]
  · rfl
  · rcases h with h | h <;> simp [h]

theorem releaseWaiting_opens {s : State} {m : MotIx} (h : (s.claim m).state = .waiting) (h0 : (s.claim m).inFlight = 0) :
    releaseWaiting m s = openClaim m s := by
  unfold releaseWaiting
  rw [Op.cond_run, if_pos (by simp [h, h0])]

section Report

variable {f : TxFrame} {m : MotIx} {g : SegIx} {amount hold : Nat} {s : State} {sent : Bool}

/-- The report of the CLAIM that created a claim now HELD, or OPEN and not to yield. -/
theorem takeReport_stamps (hf : f.body = .claim m g amount hold) (ha : amount ≠ 0)
    (hn : (s.claim m).sendMoment = none)
    (hc : (s.claim m).state = .held ∨ ((s.claim m).state = .opened ∧ (sent = true ∨ (s.claim m).override = true))) :
    takeReport sent f s =
      (s.modClaim m (fun r => { r with inFlight := r.inFlight - 1, sendMoment := some s.now }), []) := by
  have hw : (s.claim m).state ≠ .waiting := by rcases hc with h | ⟨h, -⟩ <;> simp [h]
  rw [takeReport_claim sent s hf, if_pos ha, Op.andThen, creationReport_stamps (by simpa using hn) (by simpa using hc),
    releaseWaiting_idle (.inl (by simpa using hw))]
  simp [State.landed, State.modClaim_modClaim]

/-- The report of a CLAIM that did not create the claim that stands, which does not wait for it. -/
theorem takeReport_lands (hf : f.body = .claim m g amount hold)
    (hc : amount = 0 ∨ (s.claim m).state = .none ∨ (s.claim m).state = .waiting ∨ (s.claim m).sendMoment.isSome = true)
    (hw : (s.claim m).state ≠ .waiting ∨ (s.claim m).inFlight = 2) :
    takeReport sent f s = (s.landed m, []) := by
  have h1 : (if amount ≠ 0 then creationReport sent m else Op.skip) (s.landed m) = (s.landed m, []) := by
    split
    · rename_i ha; exact creationReport_idle sent (by simpa [ha] using hc)
    · rfl
  have h2 : releaseWaiting m (s.landed m) = (s.landed m, []) :=
    releaseWaiting_idle (hw.imp (by simp) (fun h => by simp [h]))
  rw [takeReport_claim sent s hf, Op.andThen, h1, h2]
  rfl

/-- The report of the last frame in flight releases the claim that waits for it (R67). -/
theorem takeReport_releases (hf : f.body = .claim m g amount hold) (hw : (s.claim m).state = .waiting)
    (h1 : (s.claim m).inFlight = 1) :
    takeReport sent f s =
      (s.modClaim m (fun r => { r with inFlight := 1, state := .opened, settle := .running s.now }),
        [.offer ⟨(s.claim m).level, .claim m (s.claim m).segment (s.claim m).amount (s.claim m).hold, 0, false⟩]) := by
  have hc : (if amount ≠ 0 then creationReport sent m else Op.skip) (s.landed m) = (s.landed m, []) := by
    split
    · exact creationReport_idle sent (.inr (.inl (by simpa using hw)))
    · rfl
  rw [takeReport_claim sent s hf, Op.andThen, hc, releaseWaiting_opens (by simpa using hw) (by simp [h1]), openClaim]
  simp only [State.landed, State.modClaim_modClaim, State.modClaim_same, List.nil_append, claimFrame, newFrame]
  refine Prod.ext ?_ rfl
  simp [State.modClaim, h1]

end Report

/-! ## A claim that yields -/

/-- What the posture of a channel is derived from (R160). -/
theorem derivePosture_congr {s t : State} {m : MotIx} (hc : t.cfg = s.cfg) (hi : t.inputs = s.inputs)
    (hs : (t.mot m).state = (s.mot m).state) (hd : (t.mot m).direction = (s.mot m).direction)
    (hp : (t.mot m).position = (s.mot m).position) (hr : (t.mot m).referenced = (s.mot m).referenced) :
    t.derivePosture m = s.derivePosture m := by
  simp only [State.derivePosture, State.bothContacts, State.roleActive, State.motCfg, State.input, hc, hi, hs, hd, hp, hr]
  rfl

/-- A recomputation changes the lights alone. -/
theorem recompute_eq (g : SegIx) (s : State) :
    recompute g s = { s with dims := (recompute g s).dims, segs := (recompute g s).segs } := by
  have h := recompute_unlit g s
  generalize recompute g s = t at *
  cases s; cases t
  simp only [State.unlit, State.mk.injEq] at h ⊢
  simp [h]

theorem withdraw_opened {s : State} {m : MotIx} (h : (s.claim m).state = .opened) :
    withdraw m s =
      (recompute (s.claim m).segment
        (s.modClaim m (fun r => { r with state := .none, settle := .zero, inFlight := r.inFlight + 1 })),
        [.offer (claimFrame m (s.claim m) 0)]) := by
  simp [withdraw, h]

/-- The channel becomes IDLE, and its posture is derived again. -/
theorem becomeIdle_fst (m : MotIx) (s : State) :
    (becomeIdle m s).1 = s.modMot m (fun c =>
      { c with state := .idle, holder := none, deadTimer := .zero, posture := (becomeIdle m s).1.derivePosture m }) := by
  have h : ∀ p, ((s.modMot m (fun c => { c with state := .idle, holder := none, deadTimer := .zero })).modMot m
      (fun c => { c with posture := p })) =
      s.modMot m (fun c => { c with state := .idle, holder := none, deadTimer := .zero, posture := p }) := fun p => by
    simp [State.modMot, State.mot]
  simp only [becomeIdle, Op.chain_cons, Op.chain_nil, Op.set_run, Op.emit_run, refreshPosture_fst, h]
  congr 1
  funext c
  congr 1
  refine Eq.symm (derivePosture_congr rfl rfl ?_ ?_ ?_ ?_) <;> simp

/-- An OPEN claim's command ends in CLAIMING, one frame of the claim fewer in flight: what that changes (R73, R74). -/
theorem endClaiming_landed {s t : State} {m : MotIx} (h : (s.claim m).state = .opened)
    (ht : t = (endClaiming m (s.landed m)).1) :
    t = { s with mots := t.mots, claims := t.claims, segs := t.segs, dims := t.dims } ∧
    t.mots = s.mots.set m { s.mot m with
      state := .idle, holder := none, deadTimer := (t.mot m).deadTimer, posture := t.derivePosture m } ∧
    t.claims = s.claims.set m { s.claim m with
      state := .none, settle := (t.claim m).settle, inFlight := (s.claim m).inFlight - 1 + 1 } := by
  have he := becomeIdle_fst m (withdraw m (s.landed m)).1
  rw [show (becomeIdle m (withdraw m (s.landed m)).1).1 = t from ht.symm, withdraw_opened (by simpa using h),
    recompute_eq] at he
  generalize hp : t.derivePosture m = p at *
  subst he
  refine ⟨rfl, ?_, ?_⟩
  · rw [State.modMot_same]; rfl
  · simp [State.landed, State.modClaim, State.modMot, State.claim]

/-- The dropped CLAIM of an OPEN claim that is not override: the claim yields, and its channel becomes IDLE (R68, R74). -/
theorem takeReport_yields {f : TxFrame} {m : MotIx} {g : SegIx} {amount hold : Nat} {s : State}
    (hf : f.body = .claim m g amount hold) (ha : amount ≠ 0) (hn : (s.claim m).sendMoment = none)
    (hc : (s.claim m).state = .opened) (ho : (s.claim m).override = false) (hm : (s.mot m).state = .claiming) :
    ∃ locks, (∀ a ∈ locks, a ∈ lockWork (.ownPosture m)) ∧
      takeReport false f s = ((endClaiming m (s.landed m)).1,
        .offer ⟨(s.claim m).level, .claim m (s.claim m).segment 0 (s.claim m).hold, 0, false⟩ :: (locks ++ [.take m])) := by
  have hy : yieldClaim m (s.landed m) = endClaiming m (s.landed m) := by
    unfold yieldClaim endClaiming
    simp only [Op.chain_cons, Op.chain_nil, Op.cond_run, withdraw_mot]
    rw [if_pos (by simpa [State.landed] using hm)]
  have hr : releaseWaiting m (endClaiming m (s.landed m)).1 = ((endClaiming m (s.landed m)).1, []) :=
    releaseWaiting_idle (.inl (by rw [(endClaiming_mot m _).2]; simp))
  refine ⟨(refreshPosture m ((withdraw m (s.landed m)).1.modMot m (fun c =>
    { c with state := .idle, holder := none, deadTimer := .zero }))).2, ?_, ?_⟩
  · unfold refreshPosture
    split
    · simp
    · exact fun a h => h
  · rw [takeReport_claim false s hf, if_pos ha, Op.andThen,
      creationReport_yields (by simpa using hn) (by simpa using hc) (by simpa using ho), hy, hr]
    refine Prod.ext rfl ?_
    simp [endClaiming, becomeIdle, withdraw_opened (s := s.landed m) (m := m) (by simpa using hc), claimFrame, newFrame]

/-- No entry of the table names the posture: its change evaluates nothing. -/
theorem evaluateLocks_unnamed {s : State} {m : MotIx} (k : MotIx) (h : s.postureNamed m = false) :
    evaluateLocks k (.ownPosture m) s = (s, []) := by
  have hl : ∀ d, s.lockFails k d (.ownPosture m) = false := fun d => by
    unfold State.postureNamed at h
    simp only [State.lockFails, List.any_eq_false] at h ⊢
    intro e he hf
    simp only [Bool.and_eq_true] at hf
    exact h e he (by simp only [Bool.and_eq_true]; exact ⟨hf.1.1, by
      have := hf.1.2; simp only [LockEntry.applies, Bool.and_eq_true] at this; exact this.1.1⟩)
  unfold evaluateLocks
  rw [Op.cond_run, if_neg]
  · rfl
  · unfold State.runningFails
    split <;> simp [hl]

theorem takePending_none {s : State} {m : MotIx} (h : ∀ e ∈ s.motionQueue, e.channel ≠ m) : takePending m s = (s, []) := by
  unfold takePending
  have hn : s.motionQueue.find? (fun e => e.channel == m) = none := by simpa using h
  rw [hn]
  split <;> rfl

/-! ## A frame sent -/

/-- The Link Controller once the frame on the line has left the queue. -/
def Link.cleared (l : Link) : Link := { l with queue := l.queue.filter (fun x => !x.onLine) }

theorem completeAttempt_queued {s : State} {f : TxFrame} (hf : s.link.queuedOnLine = some f) :
    completeAttempt s = (s.modLink Link.cleared, [.report true f]) := by
  unfold completeAttempt; rw [hf]; rfl

theorem completeAttempt_slot {s : State} {f : TxFrame} (hq : s.link.queuedOnLine = none) (hs : s.link.slot = some f)
    (hf : f.onLine = true) : completeAttempt s = (s.modLink (fun l => l.settleSlot none), [.report true f]) := by
  unfold completeAttempt; rw [hq, hs]; exact if_pos hf

theorem execFrameSent_busy {s : State} (hb : s.link.busy = true) : exec .frameSent s = .next (event completeAttempt s) :=
  congrArg Host.Outcome.next (if_pos hb)

/-- An event whose report, like its operation, shows nothing new in the own STATUS. -/
theorem event_report_unseen {op : Op} {s u v : State} {sent : Bool} {f : TxFrame} {acts : List Act}
    (hop : op s = (u, [.report sent f])) (hr : takeReport sent f u = (v, acts)) (hu : u.contents = s.contents)
    (hv : v.contents = u.contents) (ha : settleRaises (v, acts) = false) : event op s = settle (v, acts) := by
  obtain ⟨h1, h2⟩ := settle_report u sent f
  rw [hr] at h1 h2
  rw [event_unseen (by rw [hop]; exact hu), hop, h1]
  rw [hop, h2, raises_of_contents hv, ha]; rfl

/-- The event of a queued frame that is sent, by what its report does. -/
theorem execFrameSent_queued {s v : State} {f : TxFrame} {acts : List Act} (hf : s.link.queuedOnLine = some f)
    (hr : takeReport true f (s.modLink Link.cleared) = (v, acts)) (hv : v.contents = s.contents)
    (ha : settleRaises (v, acts) = false) : exec .frameSent s = .next (settle (v, acts)) := by
  rw [execFrameSent_busy (Link.busy_of_queuedOnLine hf),
    event_report_unseen (completeAttempt_queued hf) hr rfl hv ha]

/-- Settles O19: the report of the frame sent is that of no CLAIM, or one of three of a CLAIM. -/
theorem frameSentLeavesItsPlace : Obligations.FrameSentLeavesItsPlace := by
  unfold Obligations.FrameSentLeavesItsPlace
  intro s f m g amount hold hl
  obtain ⟨hlen, -, -, hone, -, -⟩ := hl
  refine ⟨fun hf hk => ?other, fun hs ho hk => ?slot, fun hf hb _ => ⟨fun ha hc hn => ?stamps, fun hc hw => ?lands,
    fun hact hw h1 => ?releases⟩⟩
  case other =>
    rw [execFrameSent_queued hf (takeReport_other true _ hk) rfl (settleRaises_nil _), settle_nil]
    rfl
  case slot =>
    have hq := Link.queue_offLine hone (by rw [hs]; exact ho)
    rw [execFrameSent_busy (by simp [Link.busy, hs, ho]),
      event_report_unseen (completeAttempt_slot hq hs ho) (takeReport_other true _ (by simp [hk])) rfl rfl
        (settleRaises_nil _), settle_nil]
    simp [State.modLink, Link.settleSlot]
  case stamps =>
    have hc' : (s.claim m).state = .held ∨ ((s.claim m).state = .opened ∧ (true = true ∨ (s.claim m).override = true)) :=
      hc.symm.imp id fun h => ⟨h, .inl rfl⟩
    rw [execFrameSent_queued hf (takeReport_stamps hb ha hn hc') rfl (settleRaises_nil _), settle_nil]
    rfl
  case lands =>
    rw [execFrameSent_queued hf (takeReport_lands hb hc hw) rfl (settleRaises_nil _), settle_nil]
    rfl
  case releases =>
    have hroom : (s.link.queue.filter (fun x => !x.onLine)).length < 8 :=
      Nat.lt_of_lt_of_le (Link.filter_length_lt hf) hlen
    obtain ⟨hset, hq⟩ := settle_offer (s := (s.modLink Link.cleared).modClaim m (fun r =>
      { r with inFlight := 1, state := .opened, settle := .running s.now }))
      (f := ⟨(s.claim m).level, .claim m (s.claim m).segment (s.claim m).amount (s.claim m).hold, 0, false⟩)
      (acts := []) hact hroom (by simp)
    rw [execFrameSent_queued hf (takeReport_releases hb hw h1) rfl hq]
    exact congrArg Host.Outcome.next hset

/-! ## A failed attempt -/

theorem failAttempt_counts {s : State} {f : TxFrame} (hf : s.link.queuedOnLine = some f) (h : f.failed + 1 < 3) :
    failAttempt s = (s.modLink (fun l => { l with
      queue := l.queue.map (fun x => if x.onLine then { x with failed := x.failed + 1, onLine := false } else x) }), []) := by
  unfold failAttempt; rw [hf]; exact if_neg (Nat.not_le_of_lt h)

theorem failAttempt_drops {s : State} {f : TxFrame} (hf : s.link.queuedOnLine = some f) (h : 3 ≤ f.failed + 1) :
    failAttempt s = (s.modLink (fun l => l.raiseErrors.cleared), [.report false f]) := by
  unfold failAttempt; rw [hf]; exact if_pos h

theorem failAttempt_slot {s : State} {f : TxFrame} (hq : s.link.queuedOnLine = none) (hs : s.link.slot = some f)
    (hf : f.onLine = true) :
    failAttempt s =
      if 3 ≤ f.failed + 1 then (s.modLink (fun l => l.raiseErrors.settleSlot none), [.report false f])
      else (s.modLink (fun l => l.settleSlot (some { f with failed := f.failed + 1, onLine := false })), []) := by
  unfold failAttempt; rw [hq, hs]; exact if_neg (by simp [hf])

theorem execTransmitError_busy {s : State} (hb : s.link.busy = true) :
    exec .transmitError s = .next (event failAttempt s) :=
  congrArg Host.Outcome.next (if_pos hb)

/-- An event with a report, but for the publisher's part. -/
theorem event_report_publish {op : Op} {s u v w : State} {sent : Bool} {f : TxFrame} {acts : List Act}
    (hop : op s = (u, [.report sent f])) (hr : takeReport sent f u = (v, acts)) (hw : settle (v, acts) = w) :
    ∃ r, event op s = publish r w := by
  have h := (settle_report u sent f).1
  rw [hr, hw] at h
  exact ⟨_, by rw [event, hop, h]⟩

/-- The event of a queued frame that is dropped, by what its report does. -/
theorem execTransmitError_dropped {s v w : State} {f : TxFrame} {acts : List Act}
    (hf : s.link.queuedOnLine = some f) (h : f.failed + 1 = 3)
    (hr : takeReport false f (s.modLink (fun l => l.raiseErrors.cleared)) = (v, acts)) (hw : settle (v, acts) = w) :
    ∃ p l, exec .transmitError s = .next { w with pub := p, link := l } ∧ l.queue = w.link.queue ∧
      l.errors = w.link.errors := by
  obtain ⟨r, hp⟩ := event_report_publish (failAttempt_drops hf (Nat.le_of_eq h.symm)) hr hw
  obtain ⟨p, l, he, hq, hx, -, -⟩ := publish_frame r w
  exact ⟨p, l, by rw [execTransmitError_busy (Link.busy_of_queuedOnLine hf), hp, he], hq, hx⟩

/-- A node that has a frame queued is in LISTEN or READY (R8, R17). -/
theorem State.ModeLaw.active_of_queued {s : State} {f : TxFrame} (h : s.ModeLaw) (hf : s.link.queuedOnLine = some f) :
    s.active = true := by
  obtain ⟨-, -, hoff, -⟩ := h
  cases ha : s.active
  · have hm := List.mem_of_find?_eq_some hf
    rw [(hoff ha).1] at hm; cases hm
  · rfl

/-- The channel of an OPEN claim is in CLAIMING (R40, R72). -/
theorem State.MotionLaw.claiming_of_opened {s : State} {m : MotIx} (h : s.MotionLaw) (hc : (s.claim m).state = .opened) :
    (s.mot m).state = .claiming := by
  have hfit := (h m).2
  rw [hc] at hfit
  cases hs : (s.mot m).state <;> simp_all [claimFits]

/-- What follows a yield where no entry of the table names the posture and nothing is pending for the channel: the zero
CLAIM takes its place. -/
theorem settle_yield {v : State} {m : MotIx} {z : TxFrame} {locks : List Act} (ha : v.active = true)
    (hq : v.link.queue.length < 8) (hk : ∀ a ∈ locks, a ∈ lockWork (.ownPosture m)) (hl : v.postureNamed m = false)
    (hp : ∀ e ∈ v.motionQueue, e.channel ≠ m) :
    settle (v, .offer z :: (locks ++ [.take m])) = v.modLink (fun l => l.withQueued [z]) := by
  refine (settle_offer ha hq fun a hm => ?_).1
  rcases List.mem_append.mp hm with hm | hm
  · obtain ⟨k, -, rfl⟩ := List.mem_map.mp (hk a hm)
    exact evaluateLocks_unnamed k hl
  · rw [List.mem_singleton.mp hm]
    exact takePending_none hp

/-- Settles O18: the attempt is a queued frame's or the slot's, it is the third or not, and the report of a CLAIM that is
dropped is one of four. -/
theorem transmitErrorCountsTheAttempt : Obligations.TransmitErrorCountsTheAttempt := by
  unfold Obligations.TransmitErrorCountsTheAttempt
  intro s f m g amount hold hl
  obtain ⟨hlen, -, -, hone, -, -⟩ := hl
  refine ⟨fun hf h3 => ?counts, fun hf h3 hk => ?drops, fun hs ho hk h3 => ?slotCounts, fun hs ho hk h3 => ?slotDrops,
    fun hsound hf h3 hb => ?claim⟩
  case counts =>
    rw [execTransmitError_busy (Link.busy_of_queuedOnLine hf),
      event_unseen (by rw [failAttempt_counts hf h3]; rfl) (by rw [failAttempt_counts hf h3]; exact settleRaises_nil _),
      failAttempt_counts hf h3, settle_nil]
    rfl
  case drops =>
    obtain ⟨p, l, he, hq, hx⟩ := execTransmitError_dropped hf h3 (takeReport_other false _ hk) (settle_nil _)
    exact ⟨_, he, rfl, hq, hx⟩
  case slotCounts =>
    have hq := Link.queue_offLine hone (by rw [hs]; exact ho)
    have hop := (failAttempt_slot hq hs ho).trans (if_neg (Nat.not_le_of_lt h3))
    rw [execTransmitError_busy (by simp [Link.busy, hs, ho]),
      event_unseen (by rw [hop]; rfl) (by rw [hop]; exact settleRaises_nil _), hop, settle_nil]
    rfl
  case slotDrops =>
    have hq := Link.queue_offLine hone (by rw [hs]; exact ho)
    have hop := (failAttempt_slot hq hs ho).trans (if_pos h3)
    obtain ⟨r, hp⟩ := event_report_publish hop (takeReport_other false _ (by simp [hk])) (settle_nil _)
    obtain ⟨p, l, he, hlq, hx, -, -⟩ := publish_frame r (s.modLink (fun l => l.raiseErrors.settleSlot none))
    refine ⟨_, execTransmitError_busy (by simp [Link.busy, hs, ho]), ?_, ?_, ?_, fun hseq => ?_⟩
    · rw [hp, he]; rfl
    · rw [hp, he]; exact hlq
    · rw [hp, he]; exact hx
    · rw [hp] at hseq ⊢
      rw [publish_link_of_seq hseq]
      simp [Link.settleSlot, Link.raiseErrors]
  case claim =>
    obtain ⟨hmot, -, -, hmode, -⟩ := hsound
    have hact := hmode.active_of_queued hf
    have hroom : (s.link.queue.filter (fun x => !x.onLine)).length < 8 :=
      Nat.lt_of_lt_of_le (Link.filter_length_lt hf) hlen
    refine ⟨fun ha hn hc ho hpend hnamed => ?yields, fun ha hn hc => ?stamps, fun hc hw => ?lands, fun hw h1 => ?releases⟩
    case yields =>
      obtain ⟨locks, hlocks, hr⟩ := takeReport_yields (s := s.modLink (fun l => l.raiseErrors.cleared)) hb ha hn hc ho
        (hmot.claiming_of_opened hc)
      obtain ⟨hframe, hmots, hclaims⟩ :=
        endClaiming_landed (s := s.modLink (fun l => l.raiseErrors.cleared)) (m := m) hc rfl
      generalize (endClaiming m ((s.modLink (fun l => l.raiseErrors.cleared)).landed m)).1 = v at *
      have hvm : v.mode = s.mode := (congrArg State.mode hframe :)
      have hlink : v.link = s.link.raiseErrors.cleared := (congrArg State.link hframe :)
      have hcfg : v.cfg = s.cfg := (congrArg State.cfg hframe :)
      have hqueue : v.motionQueue = s.motionQueue := (congrArg State.motionQueue hframe :)
      obtain ⟨p, l, he, hq, hx⟩ := execTransmitError_dropped hf h3 hr
        (settle_yield (by rw [State.active, hvm]; exact hact) (by rw [hlink]; exact hroom) hlocks
          (by rw [State.postureNamed, hcfg]; exact hnamed) (by rw [hqueue]; exact hpend))
      refine ⟨_, he, congrArg (fun u : State => { u with pub := p, link := l }) hframe, hmots, hclaims, ?_, ?_⟩
      · rw [hx, State.modLink_link, hlink]; rfl
      · rw [hq, State.modLink_link, hlink]; rfl
    case stamps =>
      obtain ⟨p, l, he, hq, hx⟩ := execTransmitError_dropped hf h3
        (takeReport_stamps hb ha hn (hc.imp id fun h => ⟨h.1, .inr h.2⟩)) (settle_nil _)
      exact ⟨_, he, rfl, rfl, hx, hq⟩
    case lands =>
      obtain ⟨p, l, he, hq, hx⟩ := execTransmitError_dropped hf h3 (takeReport_lands hb hc hw) (settle_nil _)
      exact ⟨_, he, rfl, rfl, hx, hq⟩
    case releases =>
      have hset := settle_offer (s := (s.modLink (fun l => l.raiseErrors.cleared)).modClaim m (fun r =>
        { r with inFlight := 1, state := .opened, settle := .running s.now }))
        (f := ⟨(s.claim m).level, .claim m (s.claim m).segment (s.claim m).amount (s.claim m).hold, 0, false⟩)
        (acts := []) hact hroom (by simp)
      obtain ⟨p, l, he, hq, hx⟩ := execTransmitError_dropped hf h3 (takeReport_releases hb hw h1) hset.1
      exact ⟨_, he, rfl, rfl, hx, hq⟩

end Sys2Proof.Machine
end

section
/-! PROOF. Reception: the frames that have no effect, and the id clash. Once the node is in SILENT and every channel has
tripped, the work that the trips leave does nothing, so a clash is what its operation does. -/

namespace Sys2Proof.Machine

/-! ## What becomes of an arrived frame -/

/-- Every row of the table for an arrived frame of a kind is an arrival of that kind (Table 1-3). -/
theorem exec_rows {k : Kind} {f : Frame} {c : Instr} (h : c ∈ k.rows f) (s : State) :
    ∃ owner, exec c s = .next (arrival k f owner s) := by
  cases k <;> simp only [Kind.rows, List.mem_cons, List.not_mem_nil, or_false] at h
  case command => rcases h with rfl | rfl | rfl | rfl | rfl | rfl | rfl | rfl | rfl | rfl | rfl <;> exact ⟨_, rfl⟩
  all_goals subst h; exact ⟨_, rfl⟩

theorem reception_nothing {s : State} {k : Kind} {f : Frame}
    (h : s.receives = false ∨ frameSound f = false ∨ f.kind.toNat ≠ k.code ∨
      (s.mode = .silent ∧ k ≠ .status ∧ frameSource f ≠ s.cfg.ownId) ∨
      (frameSource f = s.cfg.ownId ∧ s.link.clashed = true)) : s.reception k f = .nothing := by
  unfold State.reception
  rcases h with h | h | h | ⟨hm, hk, hs⟩ | ⟨hs, hc⟩
  · simp [h]
  · simp [h]
  · simp [h]
  · simp [hm, hk, hs]
  · simp [hs, hc]

theorem reception_clash {s : State} {k : Kind} {f : Frame} (hr : s.receives = true) (hf : frameSound f = true)
    (hk : f.kind.toNat = k.code) (hs : frameSource f = s.cfg.ownId) (hc : s.link.clashed = false) :
    s.reception k f = .clash := by
  simp [State.reception, hr, hf, hk, hs, hc]

/-! ## Work that does nothing in SILENT, at rest -/

/-- An operation leaves work of a kind only. -/
def Op.Emits (Q : Act → Prop) (op : Op) : Prop := ∀ s, ∀ a ∈ (op s).2, Q a

theorem Op.emits_skip (Q : Act → Prop) : Op.Emits Q Op.skip := fun _ _ h => absurd h List.not_mem_nil

theorem Op.emits_set (Q : Act → Prop) (f : State → State) : Op.Emits Q (Op.set f) := fun _ _ h => absurd h List.not_mem_nil

theorem Op.emits_chain {Q : Act → Prop} {l : List Op} (h : ∀ op ∈ l, Op.Emits Q op) : Op.Emits Q (Op.chain l) := by
  induction l with
  | nil => exact Op.emits_skip Q
  | cons op l ih =>
    intro s a ha
    rcases List.mem_append.mp ha with ha | ha
    · exact h op (List.mem_cons_self ..) s a ha
    · exact ih (fun b hb => h b (List.mem_cons_of_mem _ hb)) _ a ha

theorem Op.emits_each {α : Type} {Q : Act → Prop} {f : α → Op} (h : ∀ a, Op.Emits Q (f a)) (l : List α) :
    Op.Emits Q (Op.each f l) :=
  Op.emits_chain fun op hop => by obtain ⟨a, -, rfl⟩ := List.mem_map.mp hop; exact h a

theorem Op.emits_cond {Q : Act → Prop} {c : State → Bool} {a b : Op} (ha : Op.Emits Q a) (hb : Op.Emits Q b) :
    Op.Emits Q (Op.cond c a b) := fun s => by
  unfold Op.cond; split
  · exact ha s
  · exact hb s

/-- An offer or an evaluation of interlock entries. -/
def Act.IsEcho : Act → Prop
  | .offer _ | .evalLocks _ _ => True
  | _ => False

/-- Where the node sends nothing and nothing moves, such work does nothing (R17, R170). -/
theorem perform_echo {a : Act} {s : State} (h : a.IsEcho) (ha : s.active = false) (hr : s.AtRest) :
    perform a s = (s, []) := by
  cases a with
  | offer f => exact if_pos (by simp [ha])
  | evalLocks m e => simp [perform, evaluateLocks, Op.cond_run, State.runningFails, hr m]
  | _ => exact absurd h id

theorem answerMotion_echoes (c : MotionCmd) (o : Outcome) : Op.Emits Act.IsEcho (answerMotion c o) := fun s a ha => by
  simp only [answerMotion, Op.emit_run, answerWork] at ha
  split at ha
  · rw [List.mem_singleton.mp ha]; trivial
  · cases ha

theorem lockWork_echoes {e : LockEvent} {a : Act} (h : a ∈ lockWork e) : a.IsEcho := by
  obtain ⟨k, -, rfl⟩ := List.mem_map.mp h; trivial

theorem withdraw_echoes (m : MotIx) : Op.Emits Act.IsEcho (withdraw m) := fun s a ha => by
  unfold withdraw at ha
  dsimp only at ha
  split at ha
  · cases ha
  · cases ha
  all_goals rw [List.mem_singleton.mp ha]; trivial

theorem dropFollowOn_echoes (m : MotIx) : Op.Emits Act.IsEcho (dropFollowOn m) := fun s => by
  unfold dropFollowOn
  split
  · rename_i h _
    refine Op.emits_chain (fun op hop => ?_) s
    simp only [List.mem_cons, List.not_mem_nil, or_false] at hop
    rcases hop with rfl | rfl
    · exact Op.emits_set _ _
    · exact answerMotion_echoes h.cmd .cancelled
  · exact Op.emits_skip _ s

/-- A CLASH trip gives no sibling trips (R166): it hands on the channel's posture alone. -/
theorem handOnTrip_clash (m : MotIx) (s : State) :
    handOnTrip m .clash s = ((refreshPosture m s).1, (refreshPosture m s).2) := by
  simp [handOnTrip, State.siblingWork, TripReason.givesSiblings]

theorem handOnTrip_echoes (m : MotIx) : Op.Emits Act.IsEcho (handOnTrip m .clash) := fun s a ha => by
  rw [handOnTrip_clash] at ha
  unfold refreshPosture at ha
  split at ha
  · cases ha
  · exact lockWork_echoes ha

theorem clashTrip_echoes (m : MotIx) : Op.Emits Act.IsEcho (clashTrip m) := by
  refine Op.emits_cond (Op.emits_cond (Op.emits_skip _) (Op.emits_chain fun op hop => ?_)) (Op.emits_skip _)
  simp only [List.mem_cons, List.not_mem_nil, or_false] at hop
  rcases hop with rfl | rfl | rfl | rfl
  · exact Op.emits_set _ _
  · exact withdraw_echoes m
  · exact dropFollowOn_echoes m
  · exact handOnTrip_echoes m

theorem enterSilentClash_echoes : Op.Emits Act.IsEcho enterSilentClash := by
  refine Op.emits_chain fun op hop => ?_
  simp only [List.mem_cons, List.not_mem_nil, or_false] at hop
  rcases hop with rfl | rfl | rfl | rfl | rfl | rfl
  · exact Op.emits_set _ _
  · exact Op.emits_set _ _
  · exact Op.emits_set _ _
  · exact fun s => Op.emits_each (fun e : PendEntry => answerMotion_echoes e.cmd .cancelled) s.motionQueue _
  · exact Op.emits_each clashTrip_echoes _
  · exact Op.emits_set _ _

/-! ## What the trips and the freezing change in SILENT -/

/-- In SILENT the shed machine holds, so that a recomputation is a tally (R59). -/
theorem recompute_silent {s : State} (g : SegIx) (h : s.mode = .silent) : recompute g s = tally g s := by
  unfold recompute enterShed1
  exact if_neg fun hc => hc.1 h

/-- The state without its motion channels, own claims, segment records and count of choices. -/
def State.motionless (s : State) : State :=
  { s with
    mots := Vector.replicate 4 .blank, claims := Vector.replicate 4 .blank, segs := Vector.replicate 4 (.blank 0)
    choices := 0 }

theorem mode_of_motionless {s t : State} (h : t.motionless = s.motionless) : t.mode = s.mode := (congrArg State.mode h :)

theorem dim_of_motionless {s t : State} (h : t.motionless = s.motionless) (d : DimIx) :
    t.dim d = s.dim d ∧ t.dimCfg d = s.dimCfg d :=
  ⟨(congrArg (fun u => u.dim d) h :), (congrArg (fun u => u.dimCfg d) h :)⟩

theorem mot_of_unlit {s t : State} (h : t.unlit = s.unlit) (m : MotIx) : t.mot m = s.mot m ∧ t.claim m = s.claim m :=
  ⟨(congrArg (fun u => u.mot m) h :), (congrArg (fun u => u.claim m) h :)⟩

theorem withdraw_motionless {s : State} (m : MotIx) (h : s.mode = .silent) :
    (withdraw m s).1.motionless = s.motionless := by
  unfold withdraw
  dsimp only
  split
  · rfl
  all_goals rw [recompute_silent _ (by exact h)]; rfl

theorem dropFollowOn_motionless (m : MotIx) (s : State) : (dropFollowOn m s).1.motionless = s.motionless := by
  unfold dropFollowOn; split <;> rfl

/-- A CLASH trip in SILENT touches motion channels, own claims and segment records alone. -/
theorem clashTrip_motionless {s : State} (m : MotIx) (h : s.mode = .silent) :
    (clashTrip m s).1.motionless = s.motionless := by
  unfold clashTrip trip
  rw [Op.cond_run]
  split
  · rw [Op.cond_run]
    split
    · rfl
    · simp only [Op.chain_cons, Op.chain_nil, Op.set_run]
      rw [handOnTrip_clash, refreshPosture_fst]
      refine (dropFollowOn_motionless m _).trans ((withdraw_motionless m ?_).trans rfl)
      exact h
  · rfl

theorem each_clashTrip_motionless {s : State} (l : List MotIx) (h : s.mode = .silent) :
    (Op.each clashTrip l s).1.motionless = s.motionless :=
  Op.keeps_each (f := clashTrip) (P := fun t => t.motionless = s.motionless)
    (fun m _ _ ht => (clashTrip_motionless m ((mode_of_motionless ht).trans h)).trans ht) s rfl

theorem clashTrip_onlyChannel (m : MotIx) : Op.OnlyChannel m (clashTrip m) :=
  Op.onlyChannel_cond (trip_onlyChannel m .clash) (Op.onlyChannel_skip m)

@[simp] theorem clashTrip_fixed (m : MotIx) (s : State) : (clashTrip m s).1.fixed = s.fixed := by
  unfold clashTrip; apply cond_fixed <;> simp

/-- Operations on channels that the list does not name leave a channel alone. -/
theorem each_other {f : MotIx → Op} (ho : ∀ m, Op.OnlyChannel m (f m)) {l : List MotIx} {m : MotIx} (s : State)
    (hm : m ∉ l) : (Op.each f l s).1.mot m = s.mot m ∧ (Op.each f l s).1.claim m = s.claim m :=
  Op.keeps_each (P := fun t => t.mot m = s.mot m ∧ t.claim m = s.claim m)
    (fun a ha t ht => by
      obtain ⟨h1, h2⟩ := ho a t m fun e => hm (e ▸ ha)
      exact ⟨h1.trans ht.1, h2.trans ht.2⟩) s ⟨rfl, rfl⟩

/-- One operation for each channel of a list: a channel of it is what its own operation leaves, from its record as it was. -/
theorem each_channel {f : MotIx → Op} (ho : ∀ m, Op.OnlyChannel m (f m)) (hf : ∀ m s, (f m s).1.fixed = s.fixed)
    {l : List MotIx} (hn : l.Nodup) {m : MotIx} (hm : m ∈ l) (s : State) :
    ∃ u, u.fixed = s.fixed ∧ u.mot m = s.mot m ∧ u.claim m = s.claim m ∧
      (Op.each f l s).1.mot m = (f m u).1.mot m ∧ (Op.each f l s).1.claim m = (f m u).1.claim m := by
  induction l generalizing s with
  | nil => cases hm
  | cons a l ih =>
    obtain ⟨ha, hl⟩ := List.nodup_cons.mp hn
    by_cases hma : m = a
    · subst hma
      exact ⟨s, rfl, rfl, rfl, each_other ho (f m s).1 ha⟩
    · obtain ⟨u, h1, h2, h3, h4⟩ := ih hl (List.mem_of_ne_of_mem hma hm) (f a s).1
      obtain ⟨o1, o2⟩ := ho a s m hma
      exact ⟨u, h1.trans (hf a s), h2.trans o1, h3.trans o2, h4⟩

/-- A dimmer channel whose fade, if it has one, has ended at its present level (R86). -/
def DimmerCh.frozen (rating : Nat) (c : DimmerCh) : DimmerCh :=
  { c with fade := none, booked := if c.fade.isSome then dimmerDraw rating c.applied else c.booked }

theorem DimmerCh.frozen_of_none {rating : Nat} {c : DimmerCh} (h : c.fade = none) : c.frozen rating = c := by
  obtain ⟨_, fade, _, _, _, _, _⟩ := c
  cases h; rfl

theorem endFadeHere_dim {s : State} (d k : DimIx) (h : s.mode = .silent) :
    (endFadeHere d s).dim k = if k = d then (s.dim k).frozen (s.dimCfg k).rating else s.dim k := by
  unfold endFadeHere
  split
  · rename_i hf
    rw [recompute_silent _ (by exact h), tally, State.modSeg_dim, State.modDim_get]
    split
    · rename_i hk; subst hk; simp [DimmerCh.frozen, hf]
    · rfl
  · rename_i hf
    split
    · rename_i hk; subst hk; rw [DimmerCh.frozen_of_none (by simpa using hf)]
    · rfl

/-- In SILENT every fade of the list's channels ends at its present level, and no other (R93). -/
theorem fold_endFadeHere_dim {s : State} (l : List DimIx) (k : DimIx) (h : s.mode = .silent) :
    (foldState endFadeHere l s).dim k = if k ∈ l then (s.dim k).frozen (s.dimCfg k).rating else s.dim k := by
  induction l generalizing s with
  | nil => rfl
  | cons d l ih =>
    have hu := endFadeHere_unlit d s
    have hm : (endFadeHere d s).mode = .silent := (congrArg State.mode hu :).trans h
    have hc : (endFadeHere d s).dimCfg k = s.dimCfg k := (congrArg (fun t => t.cfg.dims[k]) hu :)
    show (foldState endFadeHere l (endFadeHere d s)).dim k = _
    rw [ih hm, hc, endFadeHere_dim d k h]
    by_cases hk : k = d
    · rw [if_pos hk, if_pos (List.mem_cons.mpr (.inl hk)), DimmerCh.frozen_of_none (c := DimmerCh.frozen ..) rfl]
      exact ite_self _
    · simp only [hk, if_false, List.mem_cons, false_or]

/-! ## The id clash -/

/-- The node as an id clash has it before its channels trip: in SILENT with FAULT on, the Link Controller emptied, the
timers of R17 stopped, and no command pending. -/
def State.silenced (s : State) : State :=
  { stopTimers { s with
      mode := .silent, faultOut := true
      link := { s.link with clashed := true, queue := [], slot := none, slotNext := none } } with motionQueue := [] }

theorem emptyQueue_fst (o : Outcome) (s : State) : (emptyQueue o s).1 = { s with motionQueue := [] } :=
  Op.keeps_each (f := fun e : PendEntry => answerMotion e.cmd o) (P := fun t => t = { s with motionQueue := [] })
    (fun _ _ _ ht => ht) _ rfl

/-- The node once its channels have tripped. -/
def State.clashedMotion (s : State) : State := (Op.each clashTrip allMots s.silenced).1

theorem enterSilentClash_fst (s : State) : (enterSilentClash s).1 = foldState endFadeHere allDims s.clashedMotion := by
  simp only [enterSilentClash, Op.chain_cons, Op.chain_nil, Op.set_run, emptyQueue_fst]
  rfl

theorem enterSilentClash_unlit (s : State) : (enterSilentClash s).1.unlit = s.clashedMotion.unlit := by
  rw [enterSilentClash_fst]; exact foldState_unlit endFadeHere_unlit _ _

theorem clashedMotion_motionless (s : State) : s.clashedMotion.motionless = s.silenced.motionless :=
  each_clashTrip_motionless allMots rfl

/-- What the clash leaves of the fields that neither the trips nor the end of the fades touch. -/
theorem silenced_fields {s t u : State} (ht : t.unlit = u.unlit) (hu : u.motionless = s.silenced.motionless) :
    t.mode = .silent ∧ t.faultOut = true ∧
    t.link = { s.link with clashed := true, queue := [], slot := none, slotNext := none } ∧ t.pub = s.pub.stop ∧
    t.motionQueue = [] ∧ t.peers = s.peers ∧ t.stopLatch = s.stopLatch ∧ t.inputs = s.inputs :=
  ⟨(congrArg State.mode ht :).trans (congrArg State.mode hu :),
    (congrArg State.faultOut ht :).trans (congrArg State.faultOut hu :),
    (congrArg State.link ht :).trans (congrArg State.link hu :),
    (congrArg State.pub ht :).trans (congrArg State.pub hu :),
    (congrArg State.motionQueue ht :).trans (congrArg State.motionQueue hu :),
    (congrArg State.peers ht :).trans (congrArg State.peers hu :),
    (congrArg State.stopLatch ht :).trans (congrArg State.stopLatch hu :),
    (congrArg State.inputs ht :).trans (congrArg State.inputs hu :)⟩

theorem enterSilentClash_fields (s : State) :
    (enterSilentClash s).1.mode = .silent ∧ (enterSilentClash s).1.faultOut = true ∧
    (enterSilentClash s).1.link = { s.link with clashed := true, queue := [], slot := none, slotNext := none } ∧
    (enterSilentClash s).1.pub = s.pub.stop ∧ (enterSilentClash s).1.motionQueue = [] ∧
    (enterSilentClash s).1.peers = s.peers ∧ (enterSilentClash s).1.stopLatch = s.stopLatch ∧
    (enterSilentClash s).1.inputs = s.inputs :=
  silenced_fields (enterSilentClash_unlit s) (clashedMotion_motionless s)

/-- Every channel and claim is what the channel's own trip leaves. -/
theorem enterSilentClash_mot (s : State) (m : MotIx) :
    ∃ u, u.cfg = s.cfg ∧ u.mot m = s.mot m ∧ u.claim m = s.claim m ∧
      (enterSilentClash s).1.mot m = (clashTrip m u).1.mot m ∧
      (enterSilentClash s).1.claim m = (clashTrip m u).1.claim m := by
  obtain ⟨hmot, hclaim⟩ := mot_of_unlit (enterSilentClash_unlit s) m
  obtain ⟨u, h1, h2, h3, h4, h5⟩ := each_channel clashTrip_onlyChannel clashTrip_fixed (List.nodup_finRange 4)
    (List.mem_finRange m) s.silenced
  exact ⟨u, congrArg Fixed.cfg h1, h2, h3, hmot.trans h4, hclaim.trans h5⟩

theorem enterSilentClash_dim (s : State) (d : DimIx) :
    (enterSilentClash s).1.dim d = (s.dim d).frozen (s.dimCfg d).rating := by
  have hm := clashedMotion_motionless s
  obtain ⟨hd, hc⟩ := dim_of_motionless hm d
  rw [enterSilentClash_fst, fold_endFadeHere_dim allDims d (mode_of_motionless hm),
    if_pos (show d ∈ allDims from List.mem_finRange d), hd, hc]
  rfl

/-- A channel after an id clash: TRIPPED where it is configured, and otherwise as it was (R17, R155, R165). -/
theorem enterSilentClash_tripped {s : State} (h : s.MotionLaw) (m : MotIx) (hc : (s.motCfg m).configured = true) :
    ((enterSilentClash s).1.mot m).Lawful ∧ ((enterSilentClash s).1.mot m).state = .tripped ∧
      ((enterSilentClash s).1.claim m).state = .none ∧
      ((enterSilentClash s).1.mot m).tripReason =
        if (s.mot m).state = .tripped then (s.mot m).tripReason else some .clash := by
  obtain ⟨u, hcfg, hmot, hclaim, h1, h2⟩ := enterSilentClash_mot s m
  have hu : clashTrip m u = trip m .clash u := if_pos (by simpa [State.motCfg, hcfg] using hc)
  rw [h1, h2, hu]
  obtain ⟨hl, hfit⟩ := h m
  by_cases ht : (s.mot m).state = .tripped
  · rw [trip_tripped m _ u (by rw [hmot]; exact ht), hmot, hclaim, if_pos ht]
    refine ⟨hl, ht, ?_, rfl⟩
    rw [ht] at hfit
    cases hs : (s.claim m).state <;> simp_all [claimFits]
  · obtain ⟨⟨p, hp⟩, hn⟩ := trip_mot m .clash u (by rw [hmot]; exact ht)
    rw [hp, hn, if_neg ht]
    exact ⟨MotionCh.Lawful.tripped _ _ _, rfl, rfl, rfl⟩

theorem enterSilentClash_atRest {s : State} (h : s.MotionLaw) (hs : s.SpareLaw) : (enterSilentClash s).1.AtRest := fun m => by
  by_cases hc : (s.motCfg m).configured = true
  · rw [(enterSilentClash_tripped h m hc).2.1]; rfl
  · obtain ⟨u, hcfg, hmot, -, h1, -⟩ := enterSilentClash_mot s m
    have hu : clashTrip m u = (u, []) := if_neg (by simpa [State.motCfg, hcfg] using hc)
    rw [h1, hu, hmot, hs.1 m (by simpa using hc)]; rfl

theorem publish_inactive {s : State} (r : Bool) (h : s.pub.active = false) : publish r s = s := by
  simp [publish, h]

/-- An event whose work does nothing, of a node whose publisher is then inactive. -/
theorem event_inactive {op : Op} {s : State} (h : ∀ a ∈ (op s).2, perform a (op s).1 = ((op s).1, []))
    (hp : (op s).1.pub.active = false) : event op s = (op s).1 := by
  have hset : settle (op s) = (op s).1 := (settle_idle h).1
  rw [event, hset, publish_inactive _ hp]

/-- The event of an id clash is its operation. -/
theorem event_enterSilentClash {s : State} (h : s.MotionLaw) (hs : s.SpareLaw) :
    event enterSilentClash s = (enterSilentClash s).1 := by
  obtain ⟨hm, -, -, hp, -⟩ := enterSilentClash_fields s
  exact event_inactive (fun a ha => perform_echo (enterSilentClash_echoes s a ha) (by simp [State.active, hm])
    (enterSilentClash_atRest h hs)) (by rw [hp]; rfl)

/-- Settles O21: an arrival that is no reception leaves the state, and one with the own id is the event of an id clash. -/
theorem ownIdFramesClashAndOthersPassTests : Obligations.OwnIdFramesClashAndOthersPassTests := by
  unfold Obligations.OwnIdFramesClashAndOthersPassTests
  intro s k f hsound c hc
  obtain ⟨hmot, hspare, -⟩ := hsound
  obtain ⟨owner, he⟩ := exec_rows hc s
  refine ⟨fun h => ?_, fun hr hf hk hs hcl => ?_⟩
  · rw [he, arrival, reception_nothing h]
  · rw [arrival, reception_clash hr hf hk hs hcl] at he
    obtain ⟨hm, hfault, hlink, hpub, hpend, hpeers, hlatch, hinputs⟩ := enterSilentClash_fields s
    have hdim := enterSilentClash_dim s
    have htrip := enterSilentClash_tripped hmot
    rw [event_enterSilentClash hmot hspare] at he
    generalize (enterSilentClash s).1 = t at *
    refine ⟨t, he, hm, hfault, by rw [hlink], by rw [hlink], by rw [hlink], by rw [hlink], by rw [hlink], by rw [hpub]; rfl,
      by simp [State.active, hm], hpend, hpeers, hlatch, hinputs, fun m hcfg => ?_, hdim⟩
    obtain ⟨⟨hout, hin, -, hspeed, -, hfollow, -⟩, hstate, hclaim, hreason⟩ := htrip m hcfg
    obtain ⟨-, -, hduty, -⟩ := hspeed (by rw [hstate]; rfl)
    refine ⟨hstate, by rw [hout, hstate]; rfl, by rw [hin, hstate]; rfl, by rw [State.speedDuty, hduty]; rfl, ?_, hclaim,
      hreason⟩
    rw [hstate] at hfollow
    simpa using hfollow

end Sys2Proof.Machine
end
